-- ==== Sys2Proof/Word.lean ====
section
/-! DEFINITION. The value types of the block (00 R9) and their constants. Arithmetic is in Machine/Arith.lean. -/

namespace Sys2Proof

/-- One byte of a payload, a command word or an 8-bit code (00 R8). -/
abbrev Byte := BitVec 8

/-- `fx`, the fixed-point type of 00 R9: an `i32` raw value `r` that stands for `r / 65536`. -/
abbrev Fx := BitVec 32

/-- `time`, 10 R33: an unsigned 32-bit count of milliseconds. -/
abbrev Time := BitVec 32

/-- The 4-bit counters `S.frame` and `RC[m]` (10 R26, R35). -/
abbrev Count := BitVec 4

/-- `FX_ONE` (00 R9): the fx value 1.0. -/
def fxOne : Fx := 65536#32

/-- The fx value 100.0, the bound on every anchor of stage 6 (41 R153). -/
def fxHundred : Fx := 6553600#32

/-- `FX_MAX` (00 R9) as a mathematical integer. -/
def fxMax : Int := 2147483647

/-- `FX_MIN` (00 R9) as a mathematical integer. -/
def fxMin : Int := -2147483648

/-- `FRAME_MOD` (00 R6). -/
def frameMod : Nat := 16

/-- `BRAKE_GATE` (00 R6): stage 8 runs on every other tick. -/
def brakeGate : Nat := 2

/-- `N_TAB_MAX` (00 R6): the most points a calibration table has. -/
def nTabMax : Nat := 16

/-- `N_SIG_MAX` (00 R6): the signals of a power/state frame. -/
def nSigMax : Nat := 8

/-- The bound on `N_STATE` (00 R6). -/
def nStateMax : Nat := 12

end Sys2Proof
end

