-- ==== Sys2Proof/Syntax.lean ====
section
/-! DEFINITION. The commands of UVLP command set 1 (30 R81), one constructor per row of spec/opcode_table.json. -/

namespace Sys2Proof

/-- A command of the block (30 R81). The operands are no part of it: they stand on the operand ports (30 R80). -/
inductive Instr where
  /-- `STEP`, 41 R140: one tick of the Actuator State Machine. -/
  | step
  /-- `ENC.STEER`, 42 R183: the steering frame, message index 0. -/
  | encSteer
  /-- `ENC.LONG`, 42 R184: the longitudinal frame, message index 1. -/
  | encLong
  /-- `ENC.BRAKE`, 42 R185: the brake frame, message index 2. -/
  | encBrake
  /-- `ENC.PARK`, 42 R186: the park frame, message index 3. -/
  | encPark
  /-- `ENC.STATE s`, 42 R187: power/state frame number `s`, message index `4 + s`. -/
  | encState (s : Nat)
  /-- `TICK`, 43 R210: one tick of the Controller Facade. -/
  | tick
deriving DecidableEq, Repr

end Sys2Proof
end

