-- ==== Sys2Proof/WellFormed.lean ====
section
/-! DEFINITION. When a command can be written as a command word (30 R80). -/

namespace Sys2Proof

/-- A command is well formed when its argument fits the 4-bit field `arg = cmd[3:0]` (30 R80). Whether the message is
CONFIGURED (`s < N_STATE`) depends on the instance: a word for a message that is not is still decoded, and its meaning
raises `ERR_ENCODE` (60 R225). -/
def Instr.wf : Instr → Bool
  | .step => true
  | .encSteer => true
  | .encLong => true
  | .encBrake => true
  | .encPark => true
  | .encState s => decide (s < 16)
  | .tick => true

/-- The mathematical form of `Instr.wf`. -/
abbrev Instr.WellFormed (i : Instr) : Prop := i.wf = true

end Sys2Proof
end

