-- ==== Sys2Proof/Decode.lean ====
section
/-! DEFINITION. The command word: decoder (30 R82, R83), encoder (30 R81) and the classes of the 256 words. -/

namespace Sys2Proof

/-- What the decoder reads from a command word: a command, or one of the two rejections of 30 R82. -/
inductive Decoded where
  /-- A row of the command map (30 R81). -/
  | command (i : Instr)
  /-- 30 R82 (a): an `ENC` of a kind number 4 to 15; raises `ERR_ENCODE`. -/
  | unknownMessage
  /-- 30 R82 (b): a reserved word; raises `ERR_CMD`. -/
  | reservedWord
deriving DecidableEq, Repr

/-- `op = cmd[7:4]` (30 R80). -/
def opField (w : Byte) : BitVec 4 := w.extractLsb' 4 4

/-- `arg = cmd[3:0]` (30 R80). -/
def argField (w : Byte) : BitVec 4 := w.extractLsb' 0 4

/-- The decoding algorithm of 30 R83, less its two tests that are not about the word: `STATUS.cfgFault` and
`arg < N_STATE` are tested by the meanings (Machine/Ops.lean), before any of their effect. -/
def decode (w : Byte) : Decoded :=
  if opField w = 1#4 ∧ argField w = 0#4 then .command .step
  else if opField w = 3#4 ∧ argField w = 0#4 then .command .tick
  else if opField w = 2#4 then
    if argField w = 0#4 then .command .encSteer
    else if argField w = 1#4 then .command .encLong
    else if argField w = 2#4 then .command .encBrake
    else if argField w = 3#4 then .command .encPark
    else .unknownMessage
  else if opField w = 4#4 then .command (.encState (argField w).toNat)
  else .reservedWord

/-- The command word of a command (30 R81). -/
def encode : Instr → Byte
  | .step => 0x10#8
  | .encSteer => 0x20#8
  | .encLong => 0x21#8
  | .encBrake => 0x22#8
  | .encPark => 0x23#8
  | .encState s => 0x4#4 ++ BitVec.ofNat 4 s
  | .tick => 0x30#8

/-- The row of the command map a command belongs to, as its match and its mask (30 R81). -/
def opcodeRow : Instr → Byte × Byte
  | .step => (0x10#8, 0xFF#8)
  | .encSteer => (0x20#8, 0xFF#8)
  | .encLong => (0x21#8, 0xFF#8)
  | .encBrake => (0x22#8, 0xFF#8)
  | .encPark => (0x23#8, 0xFF#8)
  | .encState _ => (0x40#8, 0xF0#8)
  | .tick => (0x30#8, 0xFF#8)

/-- The three classes of 30 R82 for an instance with `nState` power/state frames and a valid configuration. -/
inductive WordClass where
  /-- The word executes. -/
  | executes
  /-- The word raises `ERR_ENCODE` (60 R225). -/
  | errEncode
  /-- The word raises `ERR_CMD` (60 R226). -/
  | errCmd
deriving DecidableEq, Repr

/-- The class of a word (30 R82, R83). -/
def wordClass (nState : Nat) (w : Byte) : WordClass :=
  match decode w with
  | .command (.encState s) => if s < nState then .executes else .errEncode
  | .command _ => .executes
  | .unknownMessage => .errEncode
  | .reservedWord => .errCmd

/-- What the decoder gives for the instruction whose bits are `w`, an opcode-table row of `nbits` bits. Every command
is one byte (30 R80). -/
def decodeTableWord (nbits w : Nat) : Option Instr :=
  match decode (BitVec.ofNat 8 (w % 2 ^ nbits)) with
  | .command i => some i
  | .unknownMessage => none
  | .reservedWord => none

end Sys2Proof
end

