-- ==== Sys2Proof/Config.lean ====
section
/-! DEFINITION. The parameters of an instance (00 R6; 30 R85 to R87), as plain data, and the free values of the
model. Which parameter sets are valid is in Machine/CalValid.lean. -/

namespace Sys2Proof

/-- `BRAKE_SCALE_MODE` (00 R6, 41 R158). -/
inductive BrakeScaleMode where
  | toMaxMinus1
  | toMaxThenClip
deriving DecidableEq, Repr

/-- `STEER_VALUE_SRC` (00 R6, 42 R183). -/
inductive SteerValueSrc where
  | torque
  | angle
deriving DecidableEq, Repr

/-- A calibration table (00 R6): breakpoints `T_BP[]` and values `T_V[]`. They are lists, so that "mismatched lengths"
can be written down and `CalValid` must refuse them, as 00 R7 asks of such a model. -/
structure Table where
  bp : List Fx
  v : List Fx
deriving DecidableEq, Repr

/-- One anchor value `A[k]` of a speed curve: a constant, or the speed `v` moved by a constant. -/
inductive Anchor where
  | const (c : Fx)
  | speedPlus (d : Fx)
deriving DecidableEq, Repr

/-- `SpeedCurve`, the open function of 41 R153, as plain data: a tree of tests on the two arguments with four
breakpoints and four anchors at each leaf. DESIGN CHOICE (log entry 4), safe: Laws/SpeedCurve.lean proves that every
total function of `(w, v)` with non-decreasing breakpoints is written by such a tree. -/
inductive SpeedCurve where
  | leaf (p : Vector Fx 4) (a : Vector Anchor 4)
  | onSpeed (c : Fx) (below atOrAbove : SpeedCurve)
  | onWind (c : Fx) (below atOrAbove : SpeedCurve)
deriving DecidableEq, Repr

/-- The signal descriptor of 30 R85. -/
structure Descriptor where
  present : Bool
  offset : Nat
  width : Nat
  scale : Fx
  signed : Bool
deriving DecidableEq, Repr

/-- The fields of the message record of 30 R86 that every kind has. -/
structure MsgHeader where
  id : BitVec 32
  bus : Byte
  len : Nat
  div : Nat
  hasCnt : Bool
  cntOffset : Nat
  hasCsum : Bool
deriving DecidableEq, Repr

/-- `MSG[0]` with the slots of kind STEER (30 R87). -/
structure SteerMsg where
  hdr : MsgHeader
  active : Descriptor
  mode : Descriptor
  value : Descriptor
deriving DecidableEq, Repr

/-- `MSG[1]` with the slots of kind LONG (30 R87). -/
structure LongMsg where
  hdr : MsgHeader
  active : Descriptor
  mode : Descriptor
  gear : Descriptor
  speed : Descriptor
  limit : Descriptor
  accel : Descriptor
deriving DecidableEq, Repr

/-- `MSG[2]` with the slots of kind BRAKE (30 R87). -/
structure BrakeMsg where
  hdr : MsgHeader
  active : Descriptor
  mode : Descriptor
  value : Descriptor
  pump : Descriptor
deriving DecidableEq, Repr

/-- `MSG[3]` with the slots of kind PARK (30 R87). -/
structure ParkMsg where
  hdr : MsgHeader
  active : Descriptor
  enable : Descriptor
deriving DecidableEq, Repr

/-- `MSG[4 + s]` with the slots `sig0` to `sig7` of kind STATE (30 R87). -/
structure StateMsg where
  hdr : MsgHeader
  sig : Vector Descriptor 8
deriving DecidableEq, Repr

/-- The message table `MSG[m]` (30 R86). `N_STATE` is the number of its power/state messages. -/
structure MsgTable where
  steer : SteerMsg
  long : LongMsg
  brake : BrakeMsg
  park : ParkMsg
  state : List StateMsg
deriving DecidableEq, Repr

/-- The parameter set of an instance, the table of 00 R6 row by row. -/
structure Calibration where
  accelMin : Fx
  accelMax : Fx
  accelGain : Fx
  creepSpeed : Fx
  creepBrake : Fx
  speedMax : Fx
  tqUp : Fx
  tqDown : Fx
  brakeRel : Fx
  hystOn : Fx
  hystOff : Fx
  hystGap : Fx
  tq : Table
  wind : Table
  maxAcc : Table
  accelRatio : Fx
  gasMax : BitVec 16
  brakeMax : BitVec 16
  brakeScaleMode : BrakeScaleMode
  pumpMinRun : Time
  pumpMaxInterval : Time
  gearCode : Vector Byte 4
  speedLimit : Fx
  speedUnitNum : Nat
  speedUnitDen : Nat
  steerValueSrc : SteerValueSrc
  speedCurve : SpeedCurve
  msg : MsgTable
deriving DecidableEq, Repr

/-- `N_STATE` (00 R6). -/
def Calibration.nState (c : Calibration) : Nat := c.msg.state.length

/-- The value of a quotient by 0, which no rule gives and no rule evaluates under `CalValid` (40 R112). A free value:
log entry 5. -/
opaque Config.divByZero : Int → Int

/-- The value looked up in a table without points, which no rule gives (40 R120 has `n >= 1`). A free value: log
entry 5. -/
opaque Config.emptyTable : Int → Int

end Sys2Proof
end

