-- ==== Sys2Proof/Machine/Arith.lean ====
section
/-! DEFINITION. The fixed-point arithmetic of the block, 40 R110 to R119 and R127. -/

namespace Sys2Proof.Machine

/-- `clamp` (40 R114), on mathematical integers. -/
def clamp (x lo hi : Int) : Int := min (max x lo) hi

/-- `sat32` (00 R10): saturation to the range of fx. -/
def sat32 (z : Int) : Fx := BitVec.ofInt 32 (min (max z fxMin) fxMax)

/-- Floor division (00 R8; 40 R112 for every sign combination). A zero divisor never arises under `CalValid`; its
quotient is the free value of log entry 5. -/
def floorDiv (a d : Int) : Int := if d = 0 then Config.divByZero a else a.fdiv d

/-- `clamp` of fx values (40 R114, R115: in the order of the raw signed integers). -/
def fxclamp (x lo hi : Fx) : Fx := BitVec.ofInt 32 (clamp x.toInt lo.toInt hi.toInt)

/-- The greater of two fx values (40 R115). -/
def fxmax (a b : Fx) : Fx := if a.toInt < b.toInt then b else a

/-- `fxadd` (40 R110). -/
def fxadd (a b : Fx) : Fx := sat32 (a.toInt + b.toInt)

/-- `fxsub` (40 R110). -/
def fxsub (a b : Fx) : Fx := sat32 (a.toInt - b.toInt)

/-- `fxneg` (40 R110). -/
def fxneg (a : Fx) : Fx := sat32 (-a.toInt)

/-- `fxmul` (40 R111), which no rule uses and which is "defined for completeness of the type". -/
def fxmul (a b : Fx) : Fx := sat32 (floorDiv (a.toInt * b.toInt) 65536)

/-- `fxdiv` (40 R112). -/
def fxdiv (a b : Fx) : Fx := sat32 (floorDiv (a.toInt * 65536) b.toInt)

/-- `muldiv` (40 R113), on mathematical integers. -/
def muldiv (a n d : Int) : Fx := sat32 (floorDiv (a * n) d)

/-- `roundNearest` (40 R116): ties away from zero. -/
def roundNearest (a : Fx) : Int := a.toInt.sign * floorDiv (a.toInt.natAbs + 32768) 65536

/-- `toCode` (40 R117). -/
def toCode (f : Fx) (m : Nat) : Int := floorDiv (f.toInt * m) 65536

/-- `Quant` (40 R118): the numerator `p` in units of 2^-16, ties away from zero. -/
def quant (p : Int) (scale : Fx) : Int := p.sign * floorDiv (2 * p.natAbs + scale.toInt) (2 * scale.toInt)

/-- `SatField` (40 R119). -/
def satField (q : Int) (w : Nat) (signed : Bool) : Int :=
  if signed then clamp q (-2 ^ (w - 1)) (2 ^ (w - 1) - 1) else clamp q 0 (2 ^ w - 1)

/-- `CounterNext` (40 R127): addition modulo 16. -/
def counterNext (c : Count) : Count := c + 1#4

/-- Elapsed time from `earlier` to `later`, modulo 2^32 (10 R33). -/
def elapsed (later earlier : Time) : Time := later - earlier

end Sys2Proof.Machine
end

