-- ==== Sys2Proof/Machine/Lookup.lean ====
section
/-! DEFINITION. Tables, `interpolate`, `rateLimit`, the mirrored torque table and the speed curve: 20 R61,
40 R120, R122, R124, 41 R153. -/

namespace Sys2Proof.Machine

/-- A point of a table: its breakpoint and its value. -/
abbrev Point := Fx × Fx

/-- The points of a table in index order. -/
def tablePoints (t : Table) : List Point := t.bp.zip t.v

/-- `TabRead` (20 R61): the pair at index `i`; no index outside the table is ever formed. -/
def tabRead (t : Table) (i : Nat) : Option Point := (tablePoints t)[i]?

/-- The value on the segment from `a` to `b` (the `return` line of 40 R120). -/
def onSegment (x : Fx) (a b : Point) : Fx :=
  sat32 (a.2.toInt + floorDiv ((b.2.toInt - a.2.toInt) * (x.toInt - a.1.toInt)) (b.1.toInt - a.1.toInt))

/-- The search of 40 R120 for the first point after `a` whose breakpoint exceeds `x`. -/
def interpFrom (x : Fx) (a : Point) : List Point → Fx
  | [] => a.2
  | b :: rest => if x.toInt < b.1.toInt then onSegment x a b else interpFrom x b rest

/-- `interpolate` (40 R120), the table given as its points. -/
def interpolate (x : Fx) : List Point → Fx
  | [] => BitVec.ofInt 32 (Config.emptyTable x.toInt)
  | a :: rest =>
    if x.toInt ≤ a.1.toInt then a.2
    else if ((a :: rest).getLast (List.cons_ne_nil a rest)).1.toInt ≤ x.toInt then
      ((a :: rest).getLast (List.cons_ne_nil a rest)).2
    else interpFrom x a rest

/-- `rateLimit` (40 R122). -/
def rateLimit (target previous down up : Fx) : Fx :=
  fxclamp target (fxsub previous down) (fxadd previous up)

/-- One column of the mirrored torque table (40 R124): the column after its first entry, reversed and negated, then 0,
then the column after its first entry. -/
def mirrorColumn (l : List Fx) : List Fx := (l.drop 1).reverse.map fxneg ++ 0#32 :: l.drop 1

/-- `MirrorTable` (40 R124): the table `TQM` of 2n - 1 points. -/
def mirrorTable (t : Table) : Table := ⟨mirrorColumn t.bp, mirrorColumn t.v⟩

/-- The value of an anchor at speed `v`. -/
def anchorValue (v : Fx) : Anchor → Fx
  | .const c => c
  | .speedPlus d => fxadd v d

/-- `SpeedCurve(w, v)` (41 R153): the four breakpoints `P` and the four anchor values `A`. -/
def speedCurveAt (w v : Fx) : SpeedCurve → Vector Fx 4 × Vector Fx 4
  | .leaf p a => (p, a.map (anchorValue v))
  | .onSpeed c below atOrAbove =>
    if v.toInt < c.toInt then speedCurveAt w v below else speedCurveAt w v atOrAbove
  | .onWind c below atOrAbove =>
    if w.toInt < c.toInt then speedCurveAt w v below else speedCurveAt w v atOrAbove

end Sys2Proof.Machine
end

