-- ==== Sys2Proof/Machine/Payload.lean ====
section
/-! DEFINITION. The payload of a frame (20 R63 to R66), the checksum (40 R125) and the packing procedure (42 R181). -/

namespace Sys2Proof.Machine

/-- A payload as one number of at most 8 bytes, byte 0 least significant (20 R64). -/
abbrev Payload := BitVec 64

/-- The mask of a field of `w` bits at bit 0: `2^w - 1` (20 R65). -/
def fieldMask (w : Nat) : Payload := BitVec.ofNat 64 (2 ^ w - 1)

/-- `PayloadInsert` (20 R65). -/
def payloadInsert (p : Payload) (off w : Nat) (q : Int) : Payload :=
  (p &&& ~~~(fieldMask w <<< off)) ||| (BitVec.ofInt 64 (q.emod (2 ^ w)) <<< off)

/-- `payload[k]` (20 R66). -/
def payloadByte (p : Payload) (k : Nat) : Byte := p.extractLsb' (8 * k) 8

/-- The first `n` bytes of a payload, in index order (20 R66). -/
def payloadBytes (p : Payload) (n : Nat) : List Byte := (List.range n).map (payloadByte p)

/-- `XorChecksum` (40 R125). -/
def xorChecksum (b : List Byte) : Byte := b.foldl (· ^^^ ·) 0#8 ^^^ 0xFF#8

/-- One slot of a message with the numerator `p` of its physical value, in units of 2^-16 (30 R91). -/
abbrev Slot := Descriptor × Int

/-- The insertion of one slot (42 R181, 30 R91); a slot that is not present is skipped (42 R182). -/
def insertSlot (p : Payload) (k : Slot) : Payload :=
  if k.1.present then
    payloadInsert p k.1.offset k.1.width (satField (quant k.2 k.1.scale) k.1.width k.1.signed)
  else p

/-- The signals of a message, in slot order, into a payload of zeros (42 R181). -/
def packSlots (slots : List Slot) : Payload := slots.foldl insertSlot 0#64

/-- The counter field (42 R188): the value before the increment. -/
def insertCounter (h : MsgHeader) (c : Count) (p : Payload) : Payload :=
  if h.hasCnt then payloadInsert p h.cntOffset 4 c.toNat else p

/-- The checksum byte (42 R189): over bytes `0 .. len - 2`, into byte `len - 1`. -/
def insertChecksum (h : MsgHeader) (p : Payload) : Payload :=
  if h.hasCsum then
    payloadInsert p (8 * (h.len - 1)) 8 (xorChecksum (payloadBytes p (h.len - 1))).toNat
  else p

/-- The payload `Encode` builds: signals, then counter, then checksum (42 R181). -/
def encodePayload (h : MsgHeader) (slots : List Slot) (c : Count) : Payload :=
  insertChecksum h (insertCounter h c (packSlots slots))

end Sys2Proof.Machine
end

