-- ==== Sys2Proof/Machine/CalValid.lean ====
section
/-! DEFINITION. `CalValid`: the constraints of 00 R6 and 30 R89, conjoined by 00 R7. -/

namespace Sys2Proof.Machine

/-- A calibration table is well formed: 1 to `N_TAB_MAX` points, as many values as breakpoints, breakpoints strictly
increasing (00 R6, R7). -/
abbrev TableValid (t : Table) : Prop :=
  1 ≤ t.bp.length ∧ t.bp.length ≤ nTabMax ∧ t.bp.length = t.v.length ∧
    t.bp.Pairwise (fun a b => a.toInt < b.toInt)

/-- The four breakpoints of a speed curve are non-decreasing (00 R6). -/
abbrev QuadSorted (p : Vector Fx 4) : Prop :=
  p[0].toInt ≤ p[1].toInt ∧ p[1].toInt ≤ p[2].toInt ∧ p[2].toInt ≤ p[3].toInt

/-- Every leaf of a speed curve has non-decreasing breakpoints, so that `P` is non-decreasing for every argument
(00 R6). -/
def speedCurveValid : SpeedCurve → Bool
  | .leaf p _ => decide (QuadSorted p)
  | .onSpeed _ below atOrAbove => speedCurveValid below && speedCurveValid atOrAbove
  | .onWind _ below atOrAbove => speedCurveValid below && speedCurveValid atOrAbove

/-- The constraints of 00 R6 on scalar parameters. -/
abbrev ScalarsValid (c : Calibration) : Prop :=
  c.accelMin.toInt ≤ c.accelMax.toInt ∧ 0 < c.accelGain.toInt ∧ 0 < c.creepSpeed.toInt ∧
  0 ≤ c.creepBrake.toInt ∧ c.creepBrake.toInt ≤ fxOne.toInt ∧ 0 ≤ c.speedMax.toInt ∧
  0 ≤ c.tqUp.toInt ∧ 0 ≤ c.tqDown.toInt ∧ 0 ≤ c.brakeRel.toInt ∧
  0 < c.accelRatio.toInt ∧ 1 ≤ c.brakeMax.toNat ∧ 0 < c.speedUnitNum ∧ 0 < c.speedUnitDen

/-- The constraints of 00 R6 on the three thresholds of the brake hysteresis. -/
abbrev HystValid (c : Calibration) : Prop :=
  0 < c.hystOff.toInt ∧ c.hystOff.toInt < c.hystOn.toInt ∧ c.hystOn.toInt ≤ fxOne.toInt ∧
  0 ≤ c.hystGap.toInt ∧ c.hystGap.toInt ≤ c.hystOn.toInt

/-- The constraints of 00 R6 on the tables and on the speed curve. -/
abbrev TablesValid (c : Calibration) : Prop :=
  TableValid c.tq ∧ c.tq.bp.head? = some 0#32 ∧ c.tq.v.head? = some 0#32 ∧
  TableValid c.wind ∧ TableValid c.maxAcc ∧ c.maxAcc.v.all (fun x => decide (0 < x.toInt)) = true ∧
  speedCurveValid c.speedCurve = true

/-- The descriptors of a message, in slot order (20 R62, 30 R87). -/
def steerDescriptors (m : SteerMsg) : List Descriptor := [m.active, m.mode, m.value]
/-- The descriptors of a message, in slot order (20 R62, 30 R87). -/
def longDescriptors (m : LongMsg) : List Descriptor := [m.active, m.mode, m.gear, m.speed, m.limit, m.accel]
/-- The descriptors of a message, in slot order (20 R62, 30 R87). -/
def brakeDescriptors (m : BrakeMsg) : List Descriptor := [m.active, m.mode, m.value, m.pump]
/-- The descriptors of a message, in slot order (20 R62, 30 R87). -/
def parkDescriptors (m : ParkMsg) : List Descriptor := [m.active, m.enable]
/-- The descriptors of a message, in slot order (20 R62, 30 R87). -/
def stateDescriptors (m : StateMsg) : List Descriptor := m.sig.toList

/-- The messages of an instance in index order, each as its header and its descriptors (30 R84, R86). -/
def messages (t : MsgTable) : List (MsgHeader × List Descriptor) :=
  (t.steer.hdr, steerDescriptors t.steer) :: (t.long.hdr, longDescriptors t.long) ::
  (t.brake.hdr, brakeDescriptors t.brake) :: (t.park.hdr, parkDescriptors t.park) ::
  t.state.map fun m => (m.hdr, stateDescriptors m)

/-- A bit range of the payload: its offset and its width. -/
abbrev BitRange := Nat × Nat

/-- Two bit ranges share no bit. -/
abbrev RangesDisjoint (a b : BitRange) : Prop := a.1 + a.2 ≤ b.1 ∨ b.1 + b.2 ≤ a.1

/-- The bit ranges a message uses: those of its present slots, of its counter field and of its checksum byte (30 R89
item 6). -/
def usedRanges (h : MsgHeader) (ds : List Descriptor) : List BitRange :=
  (ds.filter (·.present)).map (fun d => (d.offset, d.width)) ++
  (if h.hasCnt then [(h.cntOffset, 4)] else []) ++
  (if h.hasCsum then [(8 * (h.len - 1), 8)] else [])

/-- 30 R89 item 3 for one slot of a message of `len` bytes. -/
abbrev SlotValid (len : Nat) (d : Descriptor) : Prop :=
  d.present = true → 1 ≤ d.width ∧ d.width ≤ 32 ∧ d.offset + d.width ≤ 8 * len ∧ 0 < d.scale.toInt

/-- 30 R89 items 1 to 6 for one message. -/
abbrev MessageValid (h : MsgHeader) (ds : List Descriptor) : Prop :=
  (1 ≤ h.len ∧ h.len ≤ 8) ∧ h.div ∈ [1, 2, 4, 8, 16] ∧ (∀ d ∈ ds, SlotValid h.len d) ∧
  (h.hasCnt = true → h.cntOffset + 4 ≤ 8 * h.len) ∧ (h.hasCsum = true → 2 ≤ h.len) ∧
  (usedRanges h ds).Pairwise RangesDisjoint

/-- 30 R89 for the whole table, with the bound on `N_STATE` (00 R6): every message is valid, and different messages
have different `(id, bus)`. -/
abbrev LayoutValid (t : MsgTable) : Prop :=
  t.state.length ≤ nStateMax ∧ (∀ m ∈ messages t, MessageValid m.1 m.2) ∧
  ((messages t).map fun m => (m.1.id, m.1.bus)).Nodup

/-- `CalValid` (00 R7), decided from the parameters alone. -/
def calValid (c : Calibration) : Bool :=
  decide (ScalarsValid c) && decide (HystValid c) && decide (TablesValid c) && decide (LayoutValid c.msg)

end Sys2Proof.Machine
end

