-- ==== Sys2Proof/Machine/Instance.lean ====
section
/-! DEFINITION. The spec's test instance: calibration `CAL_T` and layout `LAY_T` of 95 section 2. It stands for no
vehicle; the model uses it for the parameter set of `State.reset` alone (DESIGN CHOICE, log entry 1). -/

namespace Sys2Proof.Machine

/-- A slot that is present. -/
def presentSlot (offset width : Nat) (scale : Fx) (signed : Bool) : Descriptor :=
  ⟨true, offset, width, scale, signed⟩

/-- A slot that is absent. -/
def absentSlot : Descriptor := ⟨false, 0, 1, fxOne, false⟩

/-- A header of `LAY_T` with the counter in the high nibble of byte 6 and the checksum in byte 7. -/
def layTHeader (id : BitVec 32) (bus : Byte) (div : Nat) : MsgHeader := ⟨id, bus, 8, div, true, 52, true⟩

/-- `LAY_T` (95 section 2.2). -/
def layT : MsgTable where
  steer := ⟨layTHeader 0x101#32 0#8 1, presentSlot 0 1 fxOne false, presentSlot 1 3 fxOne false,
    presentSlot 8 16 fxOne true⟩
  long := ⟨layTHeader 0x102#32 0#8 1, presentSlot 0 1 fxOne false, presentSlot 1 2 fxOne false,
    presentSlot 4 4 fxOne false, presentSlot 8 16 1024#32 false, presentSlot 24 8 fxOne false,
    presentSlot 32 8 fxOne false⟩
  brake := ⟨layTHeader 0x103#32 0#8 2, presentSlot 0 1 fxOne false, presentSlot 1 1 fxOne false,
    presentSlot 8 10 fxOne false, presentSlot 2 1 fxOne false⟩
  park := ⟨layTHeader 0x104#32 1#8 2, presentSlot 0 1 fxOne false, presentSlot 1 1 fxOne false⟩
  state := [⟨⟨0x105#32, 1#8, 4, 4, false, 0, false⟩,
    #v[presentSlot 0 8 fxOne false, presentSlot 8 12 16384#32 true, absentSlot, absentSlot, absentSlot,
      absentSlot, absentSlot, absentSlot]⟩]

/-- The test instance of `SpeedCurve` (95 section 2.1): `P = [-1.0, -0.5, 0, 0.5]`,
`A = [0, v - 2.0, v + 2.0, v + 5.0]`. -/
def speedCurveT : SpeedCurve :=
  .leaf #v[BitVec.ofInt 32 (-65536), BitVec.ofInt 32 (-32768), 0#32, 32768#32]
    #v[.const 0#32, .speedPlus (BitVec.ofInt 32 (-131072)), .speedPlus 131072#32, .speedPlus 327680#32]

/-- `CAL_T` (95 section 2.1) with `LAY_T`. -/
def calT : Calibration where
  accelMin := BitVec.ofInt 32 (-262144)
  accelMax := 131072#32
  accelGain := 262144#32
  creepSpeed := 131072#32
  creepBrake := 16384#32
  speedMax := 6553600#32
  tqUp := 4096#32
  tqDown := 8192#32
  brakeRel := 2048#32
  hystOn := 2048#32
  hystOff := 512#32
  hystGap := 1024#32
  tq := ⟨[0#32, 32768#32, 65536#32], [0#32, 65536000#32, 196608000#32]⟩
  wind := ⟨[0#32, 2097152#32], [0#32, 8192#32]⟩
  maxAcc := ⟨[0#32, 1048576#32], [131072#32, 65536#32]⟩
  accelRatio := 98304#32
  gasMax := 200#16
  brakeMax := 256#16
  brakeScaleMode := .toMaxMinus1
  pumpMinRun := 200#32
  pumpMaxInterval := 20000#32
  gearCode := #v[0#8, 1#8, 4#8, 2#8]
  speedLimit := 7864320#32
  speedUnitNum := 18
  speedUnitDen := 5
  steerValueSrc := .torque
  speedCurve := speedCurveT
  msg := layT

end Sys2Proof.Machine
end

