-- ==== Sys2Proof/Machine/State.lean ====
section
/-! DEFINITION. The state of the block (10 R20), the ports the host drives and takes from, and the state after reset
(10 R43). Everything is plain data. -/

namespace Sys2Proof.Machine

/-- `IN.gear` (10 R22), a u2: the four values in the order of their encodings 0 to 3. -/
inductive Gear where
  | unknown
  | neutral
  | drive
  | reverse
deriving DecidableEq, Repr

/-- The operand ports `IN.*` (10 R21 to R24). They are no state of the block: the host drives them, a command samples
them at issue, and no command writes them (log entry 2). -/
structure Operands where
  accelReq : Fx
  torqueReq : Fx
  longActive : Bool
  latActive : Bool
  cancel : Bool
  speed : Fx
  gear : Gear
  now : Time
  angleCmd : Fx
  steerMode : Byte
  longMode : Byte
  brakeMode : Bool
  parkActive : Bool
  parkEnable : Bool
  /-- `IN.stateVal[s][j]`, one row of eight signals for each frame number `s` the host has set. -/
  stateVal : List (Vector Fx 8)
deriving DecidableEq, Repr

/-- All operands 0 (30 R92, the start of a trace). -/
def Operands.zero : Operands where
  accelReq := 0#32
  torqueReq := 0#32
  longActive := false
  latActive := false
  cancel := false
  speed := 0#32
  gear := .unknown
  now := 0#32
  angleCmd := 0#32
  steerMode := 0#8
  longMode := 0#8
  brakeMode := false
  parkActive := false
  parkEnable := false
  stateVal := []

/-- `ActuatorState`: the state registers S0 to S7 (10 R26 to R34). -/
structure ActuatorState where
  /-- S0, 10 R26: the index of the next tick. -/
  frame : Count
  /-- S1, 10 R27: the hysteresis latch. -/
  braking : Bool
  /-- S2, 10 R28. -/
  brakeSteady : Fx
  /-- S3, 10 R29. -/
  brakeLast : Fx
  /-- S4, 10 R30. -/
  lastTorque : Fx
  /-- S5, 10 R31. -/
  applyBrakeLast : BitVec 16
  /-- S6, 10 R32. -/
  lastPumpTimestamp : Time
  /-- S7, 10 R34. -/
  pumpOn : Bool
deriving DecidableEq, Repr

/-- The result codes of 60 R221, the values of `STATUS.code`. -/
inductive StatusCode where
  /-- 0, no error. -/
  | ok
  /-- 1, `ERR_CONFIG` (60 R222). -/
  | errConfig
  /-- 2, `ERR_ENCODE` (60 R225). -/
  | errEncode
  /-- 3, `ERR_CMD` (60 R226). -/
  | errCmd
deriving DecidableEq, Repr

/-- The stored fields of `STATUS` (10 R36). `STATUS.cfgFault` is a function of the parameters (92 D26) and stands in
Machine/Flags.lean, as does the whole register as the host reads it. -/
structure Status where
  code : StatusCode
  encErrSeen : Bool
  cmdErrSeen : Bool
deriving DecidableEq, Repr

/-- `ResolvedCommand`: the result registers Q0 to Q7 (10 R38). -/
structure Results where
  torqueCode : BitVec 32
  speedTarget : Fx
  accelCode : BitVec 16
  brakeFrac : Fx
  brakeCode : BitVec 16
  pumpOn : Bool
  gearCode : Byte
  frame : Count
deriving DecidableEq, Repr

/-- `ActuatorTelemetry`: the registers T0 to T5 (10 R39). -/
structure Telemetry where
  speed : Fx
  accel : Fx
  gas : Fx
  brake : Fx
  torque : Fx
  torqueCode : BitVec 32
deriving DecidableEq, Repr

/-- `EncodedFrame` (30 R90). -/
structure EncodedFrame where
  id : BitVec 32
  bus : Byte
  len : Nat
  payload : List Byte
deriving DecidableEq, Repr

/-- One action of the host: an item of a trace (30 R92, R93). -/
inductive HostItem where
  /-- An `in` line: from here on these values stand on the operand ports. -/
  | operands (o : Operands)
  /-- A command word is presented: a mnemonic or a `.word` line. -/
  | command (w : Byte)
  /-- `RESET`: the reset input is asserted and released (70 R250). -/
  | reset
deriving DecidableEq, Repr

/-- Indices of the rolling counters: message indices are at most 3 + 12 (30 R84). -/
abbrev MsgIndex := Fin 16

/-- The state of the machine. The first five fields are the state the spec gives the block (10 R20); the last four are
the model's own: the ports on either side and the constants of the instance (log entries 1 to 3). -/
structure State where
  /-- `S.*`. -/
  act : ActuatorState
  /-- `RC[m]` (10 R35). -/
  rc : Vector Count 16
  /-- `STATUS`. -/
  status : Status
  /-- `OUT.*`. -/
  out : Results
  /-- `TEL.*`. -/
  tel : Telemetry
  /-- The parameter set of the instance (00 R6); no step writes it. -/
  cal : Calibration
  /-- The operand ports. -/
  inp : Operands
  /-- What the host will do next, first action first. -/
  pending : List HostItem
  /-- The result batch of the most recent command (42 R197). -/
  batch : List EncodedFrame
deriving DecidableEq, Repr

/-- The reasons a step can end in a fault. There is none: every error of the block is reported in `STATUS` and the
next command runs (60 R224, R228). Safe: an empty type claims nothing of the hardware that 60 R228 does not say. -/
inductive Fault where
deriving DecidableEq

/-- The reasons a step can be refused. -/
inductive Refusal where
  /-- An instruction without a meaning, raised by its arm of `exec` alone. Safe: the model then says nothing about the
  instruction. Every instruction of this model has its meaning, so nothing raises it. -/
  | notModelled (mnemonic : String)
deriving DecidableEq, Repr

/-- `S.*` after reset (10 R43). -/
def ActuatorState.zero : ActuatorState := ⟨0#4, false, 0#32, 0#32, 0#32, 0#16, 0#32, false⟩

/-- The stored fields of `STATUS` after reset (10 R43). -/
def Status.zero : Status := ⟨.ok, false, false⟩

/-- `OUT.*` after reset (10 R43). -/
def Results.zero : Results := ⟨0#32, 0#32, 0#16, 0#32, 0#16, false, 0#8, 0#4⟩

/-- `TEL.*` after reset (10 R43). -/
def Telemetry.zero : Telemetry := ⟨0#32, 0#32, 0#32, 0#32, 0#32, 0#32⟩

/-- An instance with parameter set `c` right after construction and reset (70 R251, 10 R43): its ports at 0 (30 R92),
nothing pending, no frame emitted. -/
def State.resetWith (c : Calibration) : State where
  act := .zero
  rc := Vector.replicate 16 0#4
  status := .zero
  out := .zero
  tel := .zero
  cal := c
  inp := .zero
  pending := []
  batch := []

/-- The state after reset, of the spec's test instance (DESIGN CHOICE, log entry 1). -/
def State.reset : State := .resetWith calT

end Sys2Proof.Machine
end

