-- ==== Sys2Proof/Machine/Flags.lean ====
section
/-! DEFINITION. `STATUS` and the one-bit conditions the commands test (10 R36, R40): the block has no condition codes. -/

namespace Sys2Proof.Machine

/-- The 2-bit value of a result code (60 R221). -/
def StatusCode.bits : StatusCode → BitVec 2
  | .ok => 0#2
  | .errConfig => 1#2
  | .errEncode => 2#2
  | .errCmd => 3#2

/-- `STATUS.cfgFault` (10 R36): 1 exactly when `CalValid` fails. It is a function of the parameters (92 D26). -/
def State.cfgFault (s : State) : Bool := !calValid s.cal

/-- `STATUS` as the host reads it: code in bits 1:0, `cfgFault` bit 2, `encErrSeen` bit 3, `cmdErrSeen` bit 4, bits
7:5 zero (10 R36). -/
def State.statusWord (s : State) : Byte :=
  0#3 ++ BitVec.ofBool s.status.cmdErrSeen ++ BitVec.ofBool s.status.encErrSeen ++ BitVec.ofBool s.cfgFault ++
    s.status.code.bits

/-- The condition under which stage 3 forces zero (41 R146). -/
def hystForced (c : Calibration) (brakeRaw : Fx) (braking : Bool) : Bool :=
  if braking then decide (brakeRaw.toInt < c.hystOff.toInt) else !decide (c.hystOn.toInt < brakeRaw.toInt)

/-- Stage 8 runs on this tick (41 R157). -/
def protectionTick (tickIndex : Count) : Bool := decide (tickIndex.toNat % brakeGate = 0)

/-- The pump timer is reset (41 R159): the code rises, or the maximum interval has passed with brake requested. -/
def pumpTimerResets (c : Calibration) (code applied : BitVec 16) (since : Time) : Bool :=
  decide (applied.toNat < code.toNat) || (decide (c.pumpMaxInterval.toNat < since.toNat) && decide (0 < code.toNat))

/-- The pump is reported on (41 R159): brake requested, and less than the minimum run since the timer was reset. -/
def pumpRuns (c : Calibration) (code : BitVec 16) (since : Time) : Bool :=
  decide (0 < code.toNat) && decide (since.toNat < c.pumpMinRun.toNat)

/-- A message with send divisor `div` is sent on tick `t` (43 R212). -/
def sendGate (t : Count) (div : Nat) : Bool := decide (t.toNat % div = 0)

end Sys2Proof.Machine
end

