-- ==== Sys2Proof/Machine/Operands.lean ====
section
/-! DEFINITION. What the commands read from the operand ports: input conditioning (41 R141), the gear code (41 R155)
and the numerator of every slot of every message kind (42 R183 to R187, R193, R194). -/

namespace Sys2Proof.Machine

/-- The conditioned operands of `STEP` (41 R141). -/
structure Conditioned where
  aIn : Fx
  tqIn : Fx
  v : Fx
  active : Bool
deriving DecidableEq, Repr

/-- Input conditioning (41 R141): out-of-range inputs are clamped, never rejected (60 R223). -/
def condition (c : Calibration) (i : Operands) : Conditioned where
  aIn := fxclamp i.accelReq c.accelMin c.accelMax
  tqIn := fxclamp i.torqueReq (fxneg fxOne) fxOne
  v := fxclamp i.speed 0#32 c.speedMax
  active := i.longActive

/-- The 2-bit encoding of `IN.gear` (10 R22). -/
def Gear.index : Gear → Fin 4
  | .unknown => 0
  | .neutral => 1
  | .drive => 2
  | .reverse => 3

/-- `GEAR_CODE[IN.gear]` (41 R155). -/
def gearCode (c : Calibration) (g : Gear) : Byte := c.gearCode[g.index]

/-- The numerator of a flag (42 R183 to R186). -/
def flagNumerator (b : Bool) : Int := if b then 65536 else 0

/-- The numerator of an integer code (30 R91). -/
def codeNumerator (c : Int) : Int := c * 65536

/-- The numerator of the steering `value` slot (42 R183, R193): the torque code as stage 5 left it, or the negated
angle. -/
def steerNumerator (c : Calibration) (i : Operands) (o : Results) : Int :=
  match c.steerValueSrc with
  | .torque => codeNumerator o.torqueCode.toInt
  | .angle => (fxneg i.angleCmd).toInt

/-- The numerator of the `speed` slot (42 R194). -/
def speedNumerator (c : Calibration) (o : Results) : Int :=
  floorDiv (o.speedTarget.toInt * c.speedUnitNum) c.speedUnitDen

/-- The numerator of the brake `value` slot (42 R185): a percentage in pedal-position mode, the code in pressure
mode. -/
def brakeNumerator (i : Operands) (o : Results) : Int :=
  if i.brakeMode then codeNumerator o.brakeCode.toNat else o.brakeFrac.toInt * 100

/-- `IN.stateVal[s][0 .. 7]` (10 R24); a row the host has not set holds 0 (30 R92). -/
def stateSignals (i : Operands) (k : Nat) : Vector Fx 8 := (i.stateVal[k]?).getD (Vector.replicate 8 0#32)

/-- The slots of `ENC.STEER` with their numerators (42 R183). -/
def steerSlots (c : Calibration) (i : Operands) (o : Results) : List Slot :=
  [(c.msg.steer.active, flagNumerator i.latActive), (c.msg.steer.mode, codeNumerator i.steerMode.toNat),
    (c.msg.steer.value, steerNumerator c i o)]

/-- The slots of `ENC.LONG` with their numerators (42 R184). -/
def longSlots (c : Calibration) (i : Operands) (o : Results) : List Slot :=
  [(c.msg.long.active, flagNumerator i.longActive), (c.msg.long.mode, codeNumerator i.longMode.toNat),
    (c.msg.long.gear, codeNumerator o.gearCode.toNat), (c.msg.long.speed, speedNumerator c o),
    (c.msg.long.limit, c.speedLimit.toInt), (c.msg.long.accel, codeNumerator o.accelCode.toNat)]

/-- The slots of `ENC.BRAKE` with their numerators (42 R185). -/
def brakeSlots (c : Calibration) (i : Operands) (o : Results) : List Slot :=
  [(c.msg.brake.active, flagNumerator i.longActive), (c.msg.brake.mode, flagNumerator i.brakeMode),
    (c.msg.brake.value, brakeNumerator i o), (c.msg.brake.pump, flagNumerator o.pumpOn)]

/-- The slots of `ENC.PARK` with their numerators (42 R186). -/
def parkSlots (c : Calibration) (i : Operands) : List Slot :=
  [(c.msg.park.active, flagNumerator i.parkActive), (c.msg.park.enable, flagNumerator i.parkEnable)]

/-- The slots of `ENC.STATE k` with their numerators (42 R187). -/
def stateSlots (m : StateMsg) (i : Operands) (k : Nat) : List Slot :=
  m.sig.toList.zip ((stateSignals i k).toList.map BitVec.toInt)

end Sys2Proof.Machine
end

