-- ==== Sys2Proof/Machine/Ops.lean ====
section
/-! DEFINITION. The named operations over the state: raising an error and completing a command (60 R224), the rolling
counters (42 R188), emitting a frame (42 R197), one encode (42 R181), reset (70 R250), and what the host reads
(10 R42). -/

namespace Sys2Proof.Machine

/-- `raise` (60 R224), the one way an error is taken: no frame, `STATUS.code` the error's code, the error's sticky bit
set, nothing else written. There is no return from it but the host's next command (60 R228). -/
def raise (e : StatusCode) (s : State) : State :=
  { s with
    status :=
      { code := e
        encErrSeen := s.status.encErrSeen || decide (e = .errEncode)
        cmdErrSeen := s.status.cmdErrSeen || decide (e = .errCmd) }
    batch := [] }

/-- A decode error on this instance: `ERR_CONFIG` has priority (60 R227). -/
def reject (e : StatusCode) (s : State) : State :=
  if s.cfgFault then raise .errConfig s else raise e s

/-- The result batch of a command starts empty (42 R197). -/
def startBatch (s : State) : State := { s with batch := [] }

/-- A command that completes leaves `STATUS.code = OK` and the sticky bits as they are (10 R36, 60 R221). -/
def complete (s : State) : State := { s with status := { s.status with code := .ok } }

/-- A command with the effect `effect`: `ERR_CONFIG` before anything under a configuration fault (60 R222), else the
effect and completion. -/
def runCommand (effect : State → State) (s : State) : Host.Outcome State Fault Refusal :=
  if s.cfgFault then .next (raise .errConfig s) else .next (complete (effect (startBatch s)))

/-- `emit` (42 R197). -/
def emit (f : EncodedFrame) (s : State) : State := { s with batch := s.batch ++ [f] }

/-- The counter update of an encode (42 R188): only a message that carries a counter moves its own. -/
def advanceCounter (m : MsgIndex) (h : MsgHeader) (s : State) : State :=
  { s with rc := if h.hasCnt then s.rc.set m (counterNext s.rc[m]) else s.rc }

/-- The frame an encode emits (42 R181, 30 R90). -/
def encodedFrame (h : MsgHeader) (slots : List Slot) (c : Count) : EncodedFrame :=
  { id := h.id, bus := h.bus, len := h.len, payload := payloadBytes (encodePayload h slots c) h.len }

/-- `Encode(m, vals)` (42 R181). -/
def encodeMessage (m : MsgIndex) (h : MsgHeader) (slots : List Slot) (s : State) : State :=
  emit (encodedFrame h slots s.rc[m]) (advanceCounter m h s)

/-- The message index of power/state frame `k` (30 R84); under `CalValid`, `k < 12`. -/
def stateIndex (k : Nat) : MsgIndex := Fin.ofNat 16 (4 + k)

/-- Reset (70 R250): every piece of state at its reset value, the parameters unchanged. The ports the host drives keep
what it drives on them (log entry 7). -/
def resetBlock (s : State) : State :=
  { State.resetWith s.cal with inp := s.inp, pending := s.pending }

/-- What the host can read of the block, and the batch it takes (10 R42, 42 R197): all else is hidden state. -/
structure HostView where
  out : Results
  tel : Telemetry
  status : Byte
  batch : List EncodedFrame
deriving DecidableEq, Repr

/-- The host's view of a state (10 R42). -/
def State.hostView (s : State) : HostView := ⟨s.out, s.tel, s.statusWord, s.batch⟩

end Sys2Proof.Machine
end

