-- ==== Sys2Proof/Machine/Stages.lean ====
section
/-! DEFINITION. The nine pipeline stages of `STEP`, one definition per rule of 41. -/

namespace Sys2Proof.Machine

/-- The creep-brake term (41 R143). -/
def creepTerm (c : Calibration) (v : Fx) : Fx :=
  if v.toInt < c.creepSpeed.toInt then
    muldiv c.creepBrake.toInt (c.creepSpeed.toInt - v.toInt) c.creepSpeed.toInt
  else 0#32

/-- The signed drive/brake balance (41 R143). -/
def driveBalance (c : Calibration) (accel v : Fx) : Fx := fxsub (fxdiv accel c.accelGain) (creepTerm c v)

/-- The locals of stage 1. -/
structure Drive where
  accel : Fx
  gas : Fx
  brakeRaw : Fx
deriving DecidableEq, Repr

/-- Stage 1 (41 R142, R143, R144). -/
def stageDrive (c : Calibration) (x : Conditioned) : Drive :=
  if x.active then
    { accel := x.aIn
      gas := fxclamp (driveBalance c x.aIn x.v) 0#32 fxOne
      brakeRaw := fxclamp (fxneg (driveBalance c x.aIn x.v)) 0#32 fxOne }
  else { accel := 0#32, gas := 0#32, brakeRaw := 0#32 }

/-- Stage 2 (41 R145). -/
def stageTorque (c : Calibration) (tqIn lastTorque : Fx) : Fx := rateLimit tqIn lastTorque c.tqDown c.tqUp

/-- What stage 3 leaves: the latch, the steady value and the local `hystOut`. -/
structure Hysteresis where
  braking : Bool
  steady : Fx
  out : Fx
deriving DecidableEq, Repr

/-- The new steady value on the steady-update arm (41 R148). -/
def steadyUpdate (c : Calibration) (brakeRaw steady : Fx) : Fx :=
  if (fxadd steady c.hystGap).toInt < brakeRaw.toInt then fxsub brakeRaw c.hystGap
  else if brakeRaw.toInt < (fxsub steady c.hystGap).toInt then fxadd brakeRaw c.hystGap
  else steady

/-- Stage 3 (41 R146, R147, R148). -/
def stageHysteresis (c : Calibration) (brakeRaw : Fx) (braking : Bool) (steady : Fx) : Hysteresis :=
  if hystForced c brakeRaw braking then { braking := false, steady := 0#32, out := 0#32 }
  else
    { braking := true
      steady := steadyUpdate c brakeRaw steady
      out := steadyUpdate c brakeRaw steady }

/-- Stage 4 (41 R150). -/
def stageBrakeLimit (c : Calibration) (hystOut brakeLast : Fx) : Fx := fxmax hystOut (fxsub brakeLast c.brakeRel)

/-- Stage 5 (41 R151). -/
def stageTorqueCode (c : Calibration) (tq : Fx) : Int :=
  roundNearest (interpolate (fxneg tq) (tablePoints (mirrorTable c.tq)))

/-- Stage 6, the wind offset (41 R152). -/
def windOffset (c : Calibration) (v : Fx) : Fx := interpolate v (tablePoints c.wind)

/-- The points of the speed curve with every anchor clamped to [0, 100.0] (41 R153). -/
def speedPoints (c : Calibration) (w v : Fx) : List Point :=
  (speedCurveAt w v c.speedCurve).1.toList.zip
    ((speedCurveAt w v c.speedCurve).2.toList.map fun a => fxclamp a 0#32 fxHundred)

/-- Stage 6, the speed target (41 R153). -/
def stageSpeedTarget (c : Calibration) (active : Bool) (w v : Fx) (d : Drive) : Fx :=
  if active then interpolate (fxsub d.gas d.brakeRaw) (speedPoints c w v) else 0#32

/-- The throttle fraction of stage 7 (41 R154). -/
def throttleFraction (c : Calibration) (accel v : Fx) : Fx :=
  fxclamp (fxdiv (fxdiv accel c.accelRatio) (interpolate v (tablePoints c.maxAcc))) 0#32 fxOne

/-- Stage 7 (41 R154). -/
def stageAccelCode (c : Calibration) (active : Bool) (accel v : Fx) : BitVec 16 :=
  if active then BitVec.ofInt 16 (toCode (throttleFraction c accel v) c.gasMax.toNat) else 0#16

/-- Stage 8, the brake code (41 R158). -/
def stageBrakeCode (c : Calibration) (brakeLim w : Fx) : BitVec 16 :=
  match c.brakeScaleMode with
  | .toMaxMinus1 => BitVec.ofInt 16 (toCode (fxclamp (fxsub brakeLim w) 0#32 fxOne) (c.brakeMax.toNat - 1))
  | .toMaxThenClip =>
    BitVec.ofInt 16 (min (toCode (fxclamp (fxsub brakeLim w) 0#32 fxOne) c.brakeMax.toNat) (c.brakeMax.toNat - 1))

/-- The registers stage 8 owns. -/
structure Pump where
  applied : BitVec 16
  timestamp : Time
  on : Bool
deriving DecidableEq, Repr

/-- The pump timer after a possible reset (41 R159). -/
def pumpTimer (c : Calibration) (code : BitVec 16) (now : Time) (p : Pump) : Time :=
  if pumpTimerResets c code p.applied (elapsed now p.timestamp) then now else p.timestamp

/-- Stage 8, the pump hysteresis (41 R159). -/
def stagePump (c : Calibration) (code : BitVec 16) (now : Time) (p : Pump) : Pump where
  applied := code
  timestamp := pumpTimer c code now p
  on := pumpRuns c code (elapsed now (pumpTimer c code now p))

/-- Stage 8 on a tick: on a protection tick the code and the pump are computed (41 R157 to R159), on another tick the
registers hold (41 R160). -/
def stageProtection (c : Calibration) (tickIndex : Count) (brakeLim w : Fx) (now : Time) (p : Pump) : Pump :=
  if protectionTick tickIndex then stagePump c (stageBrakeCode c brakeLim w) now p else p

end Sys2Proof.Machine
end

