-- ==== Sys2Proof/Machine/Actuator.lean ====
section
/-! DEFINITION. `STEP` (41 R140): the stages composed, the result write (41 R162) and the telemetry write (41 R163). -/

namespace Sys2Proof.Machine

/-- The locals of one `STEP` (41 R141 to R160). -/
structure StepLocals where
  drive : Drive
  tq : Fx
  hyst : Hysteresis
  brakeLim : Fx
  torqueCode : BitVec 32
  wind : Fx
  speedTarget : Fx
  accelCode : BitVec 16
  gear : Byte
  pump : Pump
deriving DecidableEq, Repr

/-- The registers of stage 8 as `S.*` holds them. -/
def ActuatorState.pump (a : ActuatorState) : Pump := ⟨a.applyBrakeLast, a.lastPumpTimestamp, a.pumpOn⟩

/-- Stage 3 of a tick, after stage 1. -/
def tickHysteresis (c : Calibration) (i : Operands) (a : ActuatorState) : Hysteresis :=
  stageHysteresis c (stageDrive c (condition c i)).brakeRaw a.braking a.brakeSteady

/-- The rate-limited brake fraction of a tick: stages 1, 3 and 4. -/
def tickBrakeLimit (c : Calibration) (i : Operands) (a : ActuatorState) : Fx :=
  stageBrakeLimit c (tickHysteresis c i a).out a.brakeLast

/-- The stages of one `STEP` in the order of 41 R140. -/
def stepLocals (c : Calibration) (i : Operands) (a : ActuatorState) : StepLocals where
  drive := stageDrive c (condition c i)
  tq := stageTorque c (condition c i).tqIn a.lastTorque
  hyst := tickHysteresis c i a
  brakeLim := tickBrakeLimit c i a
  torqueCode := BitVec.ofInt 32 (stageTorqueCode c (stageTorque c (condition c i).tqIn a.lastTorque))
  wind := windOffset c (condition c i).v
  speedTarget :=
    stageSpeedTarget c i.longActive (windOffset c (condition c i).v) (condition c i).v (stageDrive c (condition c i))
  accelCode := stageAccelCode c i.longActive (stageDrive c (condition c i)).accel (condition c i).v
  gear := gearCode c i.gear
  pump := stageProtection c a.frame (tickBrakeLimit c i a) (windOffset c (condition c i).v) i.now a.pump

/-- `S.*` after a `STEP` with locals `l`, stage 9 included (41 R161). -/
def nextActuator (l : StepLocals) (a : ActuatorState) : ActuatorState where
  frame := counterNext a.frame
  braking := l.hyst.braking
  brakeSteady := l.hyst.steady
  brakeLast := l.brakeLim
  lastTorque := l.tq
  applyBrakeLast := l.pump.applied
  lastPumpTimestamp := l.pump.timestamp
  pumpOn := l.pump.on

/-- The result write (41 R162); `OUT.frame` is the index of the tick just executed. -/
def stepResults (l : StepLocals) (tickIndex : Count) : Results where
  torqueCode := l.torqueCode
  speedTarget := l.speedTarget
  accelCode := l.accelCode
  brakeFrac := l.brakeLim
  brakeCode := l.pump.applied
  pumpOn := l.pump.on
  gearCode := l.gear
  frame := tickIndex

/-- The telemetry write (41 R163). -/
def stepTelemetry (l : StepLocals) : Telemetry where
  speed := l.speedTarget
  accel := l.drive.accel
  gas := l.drive.gas
  brake := l.brakeLim
  torque := l.tq
  torqueCode := l.torqueCode

/-- The effect of a `STEP` on the state, less `STATUS.code` (41 R141 to R163). -/
def runStep (s : State) : State :=
  { s with
    act := nextActuator (stepLocals s.cal s.inp s.act) s.act
    out := stepResults (stepLocals s.cal s.inp s.act) s.act.frame
    tel := stepTelemetry (stepLocals s.cal s.inp s.act) }

/-- `STEP` (41 R140). -/
def execStep (s : State) : Host.Outcome State Fault Refusal := runCommand runStep s

end Sys2Proof.Machine
end

