-- ==== Sys2Proof/Machine/Encoder.lean ====
section
/-! DEFINITION. The five `ENC.*` commands (42 R183 to R187). -/

namespace Sys2Proof.Machine

/-- The encode of message 0 (42 R183). -/
def sendSteer (s : State) : State := encodeMessage 0 s.cal.msg.steer.hdr (steerSlots s.cal s.inp s.out) s

/-- The encode of message 1 (42 R184). -/
def sendLong (s : State) : State := encodeMessage 1 s.cal.msg.long.hdr (longSlots s.cal s.inp s.out) s

/-- The encode of message 2 (42 R185). -/
def sendBrake (s : State) : State := encodeMessage 2 s.cal.msg.brake.hdr (brakeSlots s.cal s.inp s.out) s

/-- The encode of message 3 (42 R186). -/
def sendPark (s : State) : State := encodeMessage 3 s.cal.msg.park.hdr (parkSlots s.cal s.inp) s

/-- The encode of message `4 + k`, whose record is `m` (42 R187). -/
def sendState (k : Nat) (m : StateMsg) (s : State) : State :=
  encodeMessage (stateIndex k) m.hdr (stateSlots m s.inp k) s

/-- `ENC.STEER` (42 R183). -/
def execEncSteer (s : State) : Host.Outcome State Fault Refusal := runCommand sendSteer s

/-- `ENC.LONG` (42 R184). -/
def execEncLong (s : State) : Host.Outcome State Fault Refusal := runCommand sendLong s

/-- `ENC.BRAKE` (42 R185). -/
def execEncBrake (s : State) : Host.Outcome State Fault Refusal := runCommand sendBrake s

/-- `ENC.PARK` (42 R186). -/
def execEncPark (s : State) : Host.Outcome State Fault Refusal := runCommand sendPark s

/-- `ENC.STATE k` (42 R187); a frame number that is not configured raises `ERR_ENCODE` (60 R225). -/
def execEncState (k : Nat) (s : State) : Host.Outcome State Fault Refusal :=
  match s.cal.msg.state[k]? with
  | some m => runCommand (sendState k m) s
  | none => .next (reject .errEncode s)

end Sys2Proof.Machine
end

