-- ==== Sys2Proof/Machine/Facade.lean ====
section
/-! DEFINITION. `TICK` (43 R210): one `STEP`, then the encodes that pass the cadence gate, in message order. -/

namespace Sys2Proof.Machine

/-- An encode that runs only when its message passes the gate of the tick just executed (43 R212). -/
def gated (h : MsgHeader) (send : State → State) (s : State) : State :=
  if sendGate s.out.frame h.div then send s else s

/-- The gated encodes of the power/state frames `k, k + 1, ..`, whose records are listed (43 R211). -/
def sendStatesFrom (k : Nat) : List StateMsg → State → State
  | [], s => s
  | m :: rest, s => sendStatesFrom (k + 1) rest (gated m.hdr (sendState k m) s)

/-- The gated encodes of every message, in the send order of 43 R211. -/
def sendAll (s : State) : State :=
  sendStatesFrom 0 s.cal.msg.state
    (gated s.cal.msg.park.hdr sendPark
      (gated s.cal.msg.brake.hdr sendBrake
        (gated s.cal.msg.long.hdr sendLong (gated s.cal.msg.steer.hdr sendSteer s))))

/-- The effect of a `TICK`, less `STATUS.code` (43 R210). -/
def runTick (s : State) : State := sendAll (runStep s)

/-- `TICK` (43 R210). -/
def execTick (s : State) : Host.Outcome State Fault Refusal := runCommand runTick s

end Sys2Proof.Machine
end

