-- ==== Sys2Proof/Machine/Dispatch.lean ====
section
/-! DEFINITION. The meaning of a command, arm by arm. -/

namespace Sys2Proof.Machine

def exec (i : Instr) (s : State) : Host.Outcome State Fault Refusal :=
  match i with
  | .step => Sys2Proof.Machine.execStep s
  | .encSteer => Sys2Proof.Machine.execEncSteer s
  | .encLong => Sys2Proof.Machine.execEncLong s
  | .encBrake => Sys2Proof.Machine.execEncBrake s
  | .encPark => Sys2Proof.Machine.execEncPark s
  | .encState k => Sys2Proof.Machine.execEncState k s
  | .tick => Sys2Proof.Machine.execTick s

end Sys2Proof.Machine
end

