-- ==== Sys2Proof/Machine/Trace.lean ====
section
/-! DEFINITION. Traces of host actions (30 R92, R93): what a trace item does to the ports, the encoding of a trace and
the expansion of the pseudo-commands. -/

namespace Sys2Proof.Machine

/-- An `in` line (30 R92): the values now on the operand ports. -/
def drivePorts (o : Operands) (s : State) : State := { s with inp := o }

/-- A mnemonic line (30 R92): its command word. -/
def traceOf (i : Instr) : HostItem := .command (encode i)

/-- The encoding of a trace: the sequence of its command words (30 R92). -/
def traceWords : List HostItem → List Byte
  | [] => []
  | .command w :: rest => w :: traceWords rest
  | .operands _ :: rest => traceWords rest
  | .reset :: rest => traceWords rest

/-- `ENCALL` on an instance with `n` power/state frames (30 R93). -/
def encAll (n : Nat) : List HostItem :=
  [traceOf .encSteer, traceOf .encLong, traceOf .encBrake, traceOf .encPark] ++
    (List.range n).map fun k => traceOf (.encState k)

/-- The issues of `TICKS n, dt` after the first (30 R93): before each, `now` moves on by `dt` modulo 2^32. -/
def ticksAfter (dt : Time) : Nat → Operands → List HostItem
  | 0, _ => []
  | n + 1, o => .operands { o with now := o.now + dt } :: traceOf .tick :: ticksAfter dt n { o with now := o.now + dt }

/-- `TICKS n, dt` with the operands `o` on the ports (30 R93). -/
def ticks (n : Nat) (dt : Time) (o : Operands) : List HostItem :=
  match n with
  | 0 => []
  | k + 1 => traceOf .tick :: ticksAfter dt k o

/-- The state with a trace as the host's next actions. -/
def State.withTrace (s : State) (t : List HostItem) : State := { s with pending := t ++ s.pending }

end Sys2Proof.Machine
end

