-- ==== Sys2Proof/Machine/Step.lean ====
section
/-! DEFINITION. One step of the machine: the next action of the host. -/

namespace Sys2Proof.Machine

/-- One step: the host's next action. A command word is decoded and runs whole (20 R71); a word that is no command
raises its error (30 R82); reset acts between commands (70 R250); with no action pending the block does nothing
(60 R228). -/
def step (s : State) : Host.Outcome State Fault Refusal :=
  match s.pending with
  | [] => .next s
  | .operands o :: rest => .next (drivePorts o { s with pending := rest })
  | .reset :: rest => .next (resetBlock { s with pending := rest })
  | .command w :: rest =>
    match decode w with
    | .command i => exec i { s with pending := rest }
    | .unknownMessage => .next (reject .errEncode { s with pending := rest })
    | .reservedWord => .next (reject .errCmd { s with pending := rest })

/-- The state with the command word `w` as the host's very next action, which is where `step` finds its next
instruction. -/
def State.withFetchWord (s : State) (nbits w : Nat) : State :=
  { s with pending := .command (BitVec.ofNat 8 (w % 2 ^ nbits)) :: s.pending }

end Sys2Proof.Machine
end

