-- ==== Sys2Proof/Safety.lean ====
section
/-! DEFINITION. The terms in which claims about the block are made: the invariants of 10 R41, what a receiver reads
from a frame, and a sequence of commands with all its frames. -/

namespace Sys2Proof.Machine

/-- 10 R41 item 1: the fractions lie in [0, 1]. -/
abbrev FractionsInUnit (s : State) : Prop :=
  (0 ≤ s.act.brakeSteady.toInt ∧ s.act.brakeSteady.toInt ≤ 65536) ∧
  (0 ≤ s.act.brakeLast.toInt ∧ s.act.brakeLast.toInt ≤ 65536) ∧
  (0 ≤ s.out.brakeFrac.toInt ∧ s.out.brakeFrac.toInt ≤ 65536) ∧
  (0 ≤ s.tel.gas.toInt ∧ s.tel.gas.toInt ≤ 65536)

/-- 10 R41 item 2, its part about one state: the torque lies in [-1, 1]. -/
abbrev TorqueInUnit (s : State) : Prop :=
  -65536 ≤ s.act.lastTorque.toInt ∧ s.act.lastTorque.toInt ≤ 65536

/-- 10 R41 item 3: the steady value is positive exactly while the latch is set, and 0 otherwise. -/
abbrev LatchMatchesSteady (s : State) : Prop :=
  (s.act.braking = true → 0 < s.act.brakeSteady.toInt) ∧ (s.act.braking = false → s.act.brakeSteady = 0#32)

/-- 10 R41 item 4: the top brake code is never reached. -/
abbrev BrakeCodeBelowTop (s : State) : Prop := s.act.applyBrakeLast.toNat ≤ s.cal.brakeMax.toNat - 1

/-- 10 R41 item 6: the ranges of the speed target and of the acceleration code. -/
abbrev ResultsInRange (s : State) : Prop :=
  (0 ≤ s.out.speedTarget.toInt ∧ s.out.speedTarget.toInt ≤ 6553600) ∧
  s.out.accelCode.toNat ≤ s.cal.gasMax.toNat

/-- The invariants of 10 R41 on an instance whose parameters are valid. Item 5 (the ranges of the 4-bit counters) is
the type of the fields. -/
abbrev State.Inv (s : State) : Prop :=
  calValid s.cal = true →
    FractionsInUnit s ∧ TorqueInUnit s ∧ LatchMatchesSteady s ∧ BrakeCodeBelowTop s ∧ ResultsInRange s

/-- What the result and telemetry registers repeat of `S.*` and of each other between commands (41 R162, R163), and
the pump on only with brake requested (41 R159). -/
abbrev ResultsRepeatState (s : State) : Prop :=
  s.out.brakeFrac = s.act.brakeLast ∧ s.out.brakeCode = s.act.applyBrakeLast ∧ s.out.pumpOn = s.act.pumpOn ∧
  s.tel.speed = s.out.speedTarget ∧ s.tel.brake = s.out.brakeFrac ∧ s.tel.torque = s.act.lastTorque ∧
  s.tel.torqueCode = s.out.torqueCode ∧ (s.act.pumpOn = true → 0 < s.act.applyBrakeLast.toNat)

/-- `RC[m]` stays 0 for a message that carries no counter (10 R35), and for the entries that belong to no message. -/
def SilentCountersZero (s : State) : Prop :=
  calValid s.cal = true →
    ∀ m : MsgIndex, (∀ h ds, (messages s.cal.msg)[m.val]? = some (h, ds) → h.hasCnt = false) → s.rc[m] = 0#4

/-- A completed command leaves `STATUS.code = OK` and the sticky bits as they were (10 R36). -/
def StatusOk (s t : State) : Prop :=
  t.status.code = .ok ∧ t.status.encErrSeen = s.status.encErrSeen ∧ t.status.cmdErrSeen = s.status.cmdErrSeen

/-- No command writes the parameters, the operand ports or the host's further actions. -/
def PortsKept (s t : State) : Prop := t.cal = s.cal ∧ t.inp = s.inp ∧ t.pending = s.pending

/-- What a completed `STEP` leaves besides `S.*`, `OUT.*` and `TEL.*` (41 R140): the rolling counters untouched, no
frame, `STATUS.code = OK`. -/
def StepEffect (s t : State) : Prop := t.rc = s.rc ∧ t.batch = [] ∧ StatusOk s t ∧ PortsKept s t

/-- What a completed encode of message `m` leaves besides its frame (42 R180, R188): `S.*`, `OUT.*`, `TEL.*` untouched,
the counter of `m` advanced if it carries one, every other counter untouched, `STATUS.code = OK`. -/
def EncodeEffect (s t : State) (m : MsgIndex) (h : MsgHeader) : Prop :=
  t.act = s.act ∧ t.out = s.out ∧ t.tel = s.tel ∧ StatusOk s t ∧ PortsKept s t ∧
  (t.rc[m]).toNat = (if h.hasCnt then ((s.rc[m]).toNat + 1) % 16 else (s.rc[m]).toNat) ∧
  ∀ j : MsgIndex, j ≠ m → t.rc[j] = s.rc[j]

/-- The payload of a frame as one number, byte 0 least significant (20 R64). -/
def payloadNumber : List Byte → Nat
  | [] => 0
  | b :: rest => b.toNat + 256 * payloadNumber rest

/-- The field of `w` bits at payload bit `off`, as an unsigned number (20 R64). -/
def fieldAt (f : EncodedFrame) (off w : Nat) : Nat := payloadNumber f.payload / 2 ^ off % 2 ^ w

/-- A field of a frame holds a physical value with numerator `p` as 30 R91 says: divided by the slot's scale, rounded,
saturated, in two's complement. A slot that is not present holds nothing (42 R182). -/
def SlotHolds (f : EncodedFrame) (d : Descriptor) (p : Int) : Prop :=
  d.present = true →
    (fieldAt f d.offset d.width : Int) = (satField (quant p d.scale) d.width d.signed) % 2 ^ d.width

/-- A frame carries the identity of its message (30 R90). -/
def FrameOf (h : MsgHeader) (f : EncodedFrame) : Prop :=
  f.id = h.id ∧ f.bus = h.bus ∧ f.len = h.len ∧ f.payload.length = h.len

/-- The message an `ENC.*` command encodes on this instance: its index, its header and its descriptors (30 R84);
nothing for a command that is no encode or whose message is not configured. -/
def encodedMessage (c : Calibration) : Instr → Option (MsgIndex × MsgHeader × List Descriptor)
  | .step => none
  | .encSteer => some (0, c.msg.steer.hdr, steerDescriptors c.msg.steer)
  | .encLong => some (1, c.msg.long.hdr, longDescriptors c.msg.long)
  | .encBrake => some (2, c.msg.brake.hdr, brakeDescriptors c.msg.brake)
  | .encPark => some (3, c.msg.park.hdr, parkDescriptors c.msg.park)
  | .encState k => (c.msg.state[k]?).map fun m => (stateIndex k, m.hdr, stateDescriptors m)
  | .tick => none

/-- The encode commands of an instance in message order (30 R84). -/
def encodeCommands (c : Calibration) : List Instr :=
  [.encSteer, .encLong, .encBrake, .encPark] ++ (List.range c.nState).map Instr.encState

/-- The encode commands whose message passes the gate of tick `t` (43 R212), in the send order (43 R211). -/
def gatedCommands (c : Calibration) (t : Count) : List Instr :=
  (encodeCommands c).filter fun i => ((encodedMessage c i).map fun m => sendGate t m.2.1.div).getD false

/-- A sequence of commands issued one after the other, with the frames of all of them in order; nothing if one of them
stops. -/
def runCommands : List Instr → State → Option (State × List EncodedFrame)
  | [], s => some (s, [])
  | i :: rest, s =>
    match exec i s with
    | .next t => (runCommands rest t).map fun r => (r.1, t.batch ++ r.2)
    | .fault _ => none
    | .refused _ => none

end Sys2Proof.Machine
end

