-- ==== Sys2Proof/Certificates/Slice0/Obligations.lean ====
section
/-! DEFINITION. The statements about the block. A docstring cites the rule of spec/ that its statement formalises. A
rule that the spec marks as derived, and every choice of the model, is named as such; its statement has basis
'derived'. -/

open Sys2Proof Sys2Proof.Machine

/-! ### The command word -/

/-- 30 section 1: decoder and encoder agree, both ways, on every well-formed command and every word. -/
def Obligations.DecodeEncodeAgree : Prop :=
  (∀ i : Instr, i.WellFormed → decode (encode i) = .command i) ∧
  (∀ (w : Byte) (i : Instr), decode w = .command i → i.WellFormed ∧ encode i = w)

/-- 30 R81, row by row: each word of the command map decodes to its command. -/
def Obligations.CommandMapDecodes : Prop :=
  decode 0x10#8 = .command .step ∧ decode 0x20#8 = .command .encSteer ∧ decode 0x21#8 = .command .encLong ∧
  decode 0x22#8 = .command .encBrake ∧ decode 0x23#8 = .command .encPark ∧ decode 0x30#8 = .command .tick ∧
  ∀ w : Byte, 0x40 ≤ w.toNat → w.toNat ≤ 0x4F → decode w = .command (.encState (w.toNat - 0x40))

/-- 30 R82: the class of every one of the 256 words, for any number of power/state frames. -/
def Obligations.EveryWordHasItsClass : Prop :=
  ∀ (n : Nat) (w : Byte),
    (wordClass n w = .executes ↔
      w.toNat = 0x10 ∨ w.toNat = 0x30 ∨ (0x20 ≤ w.toNat ∧ w.toNat ≤ 0x23) ∨
        (0x40 ≤ w.toNat ∧ w.toNat ≤ 0x4F ∧ w.toNat - 0x40 < n)) ∧
    (wordClass n w = .errEncode ↔
      (0x24 ≤ w.toNat ∧ w.toNat ≤ 0x2F) ∨ (0x40 ≤ w.toNat ∧ w.toNat ≤ 0x4F ∧ n ≤ w.toNat - 0x40)) ∧
    (wordClass n w = .errCmd ↔
      w.toNat < 0x10 ∨ (0x11 ≤ w.toNat ∧ w.toNat ≤ 0x1F) ∨ (0x31 ≤ w.toNat ∧ w.toNat ≤ 0x3F) ∨ 0x50 ≤ w.toNat)

/-! ### Steps and errors -/

/-- 20 section 4, 30 section 1: when the host's next action is a command word that decodes to `i`, the step is `exec i`
with the word taken from the host's actions, and nothing else. -/
def Obligations.StepRunsDecodedCommand : Prop :=
  ∀ (s : State) (w : Byte) (rest : List HostItem) (i : Instr),
    s.pending = .command w :: rest → decode w = .command i → step s = exec i { s with pending := rest }

/-- 60 R226, R225 with R224: on a valid instance a word outside the command map raises its error, which emits no frame
and writes nothing but `STATUS`: the code, and the error's own sticky bit. -/
def Obligations.RejectedWordRaises : Prop :=
  ∀ (s : State) (w : Byte) (rest : List HostItem),
    s.pending = .command w :: rest → calValid s.cal = true →
    ((w.toNat < 0x10 ∨ (0x11 ≤ w.toNat ∧ w.toNat ≤ 0x1F) ∨ (0x31 ≤ w.toNat ∧ w.toNat ≤ 0x3F) ∨ 0x50 ≤ w.toNat) →
      step s = .next { s with pending := rest, batch := [], status := ⟨.errCmd, s.status.encErrSeen, true⟩ }) ∧
    (((0x24 ≤ w.toNat ∧ w.toNat ≤ 0x2F) ∨ (0x40 ≤ w.toNat ∧ w.toNat ≤ 0x4F ∧ s.cal.nState ≤ w.toNat - 0x40)) →
      step s = .next { s with pending := rest, batch := [], status := ⟨.errEncode, true, s.status.cmdErrSeen⟩ })

/-- 60 R225 for the command itself: `ENC.STATE k` of a frame that is not configured raises `ERR_ENCODE`. -/
def Obligations.UnconfiguredStateFrameRaises : Prop :=
  ∀ (s : State) (k : Nat), calValid s.cal = true → s.cal.nState ≤ k →
    exec (.encState k) s = .next { s with batch := [], status := ⟨.errEncode, true, s.status.cmdErrSeen⟩ }

/-- 60 R222, R227: under a configuration fault every command, whatever its word, raises `ERR_CONFIG`, sets no sticky
bit, and the fault stays, through a reset too. -/
def Obligations.ConfigFaultRefusesEveryWord : Prop :=
  ∀ s : State, calValid s.cal = false →
    (∀ i : Instr, exec i s = .next { s with batch := [], status := { s.status with code := .errConfig } }) ∧
    (∀ (w : Byte) (rest : List HostItem), s.pending = .command w :: rest →
      step s = .next
        { s with pending := rest, batch := [], status := { s.status with code := .errConfig } }) ∧
    ∀ t : State, step s = .next t → t.cfgFault = true

/-- 60 section 4 (the block has no fault, handler or stop: an error is reported in `STATUS` and the next command runs):
every step answers a next state. -/
def Obligations.EveryStepAnswersNext : Prop :=
  (∀ s : State, ∃ t, step s = .next t) ∧ ∀ (i : Instr) (s : State), ∃ t, exec i s = .next t

/-- 70 section 1: no step changes the parameters of the instance, nor `STATUS.cfgFault`. -/
def Obligations.ParametersNeverChange : Prop :=
  ∀ s t : State, step s = .next t → t.cal = s.cal ∧ t.cfgFault = s.cfgFault

/-- 10 R36: the layout of `STATUS`, and when each of its fields changes. Every command writes the code, which is the
result of its word's class, or `ERR_CONFIG` under a configuration fault; a sticky bit is set by its own error and cleared
by reset alone; nothing else writes them. -/
def Obligations.StatusRegisterFollowsItsTable : Prop :=
  (∀ s : State,
    (s.statusWord.toNat % 4 = match s.status.code with | .ok => 0 | .errConfig => 1 | .errEncode => 2 | .errCmd => 3) ∧
    (s.statusWord.getLsbD 2 = true ↔ calValid s.cal = false) ∧
    s.statusWord.getLsbD 3 = s.status.encErrSeen ∧ s.statusWord.getLsbD 4 = s.status.cmdErrSeen ∧
    s.statusWord.toNat < 32) ∧
  ∀ (s t : State) (a : HostItem) (rest : List HostItem), s.pending = a :: rest → step s = .next t →
    match a with
    | .command w =>
      t.status.code =
        (if calValid s.cal = true then
          match wordClass s.cal.nState w with
          | .executes => .ok
          | .errEncode => .errEncode
          | .errCmd => .errCmd
        else .errConfig) ∧
      t.status.encErrSeen = (s.status.encErrSeen || decide (t.status.code = .errEncode)) ∧
      t.status.cmdErrSeen = (s.status.cmdErrSeen || decide (t.status.code = .errCmd))
    | .operands _ => t.status = s.status
    | .reset => t.status = ⟨.ok, false, false⟩

/-- 10 R43: the reset values of every piece of state, of any instance; and 70 R250: asserting reset between commands
puts them there and leaves the parameters. -/
def Obligations.ResetValues : Prop :=
  ∀ c : Calibration,
    (∀ t : State,
      t = State.resetWith c ∨
        (∃ s rest, s.cal = c ∧ s.pending = HostItem.reset :: rest ∧ step s = .next t) →
      t.act.frame = 0#4 ∧ t.act.braking = false ∧ t.act.brakeSteady = 0#32 ∧ t.act.brakeLast = 0#32 ∧
      t.act.lastTorque = 0#32 ∧ t.act.applyBrakeLast = 0#16 ∧ t.act.lastPumpTimestamp = 0#32 ∧
      t.act.pumpOn = false ∧ (∀ m : MsgIndex, t.rc[m] = 0#4) ∧
      t.out.torqueCode = 0#32 ∧ t.out.speedTarget = 0#32 ∧ t.out.accelCode = 0#16 ∧ t.out.brakeFrac = 0#32 ∧
      t.out.brakeCode = 0#16 ∧ t.out.pumpOn = false ∧ t.out.gearCode = 0#8 ∧ t.out.frame = 0#4 ∧
      t.tel.speed = 0#32 ∧ t.tel.accel = 0#32 ∧ t.tel.gas = 0#32 ∧ t.tel.brake = 0#32 ∧ t.tel.torque = 0#32 ∧
      t.tel.torqueCode = 0#32 ∧
      t.status.code = .ok ∧ t.status.encErrSeen = false ∧ t.status.cmdErrSeen = false ∧
      t.statusWord = (if calValid c then 0x00#8 else 0x04#8) ∧ t.cal = c)

/-! ### Invariants -/

/-- 10 section 7 (R41, which the spec marks as derived): the invariants of the state are kept by every step, from every
state that has them. -/
def Obligations.InvariantKeptByEveryStep : Prop :=
  ∀ s t : State, s.Inv → step s = .next t → t.Inv

/-- 41 section 11 (R162, R163): between commands the result and telemetry registers repeat `S.*` and one another; and 41
section 10 (R159, R160): the pump is on only with a brake code that is not 0. Every step keeps this. -/
def Obligations.ResultsRepeatStateKept : Prop :=
  ∀ s t : State, ResultsRepeatState s → step s = .next t → ResultsRepeatState t

/-- 10 section 4 (R35): the counter of a message that carries none stays 0; every step keeps this. The entries that
belong to no message are the model's padding (log entry 8). -/
def Obligations.SilentCountersStayZero : Prop :=
  ∀ s t : State, SilentCountersZero s → step s = .next t → SilentCountersZero t

/-- 10 section 7: every instance has the three invariants at reset. -/
def Obligations.InvariantsHoldAtReset : Prop :=
  ∀ c : Calibration, (State.resetWith c).Inv ∧ ResultsRepeatState (State.resetWith c) ∧
    SilentCountersZero (State.resetWith c)

/-! ### STEP -/

/-- 41 R161, R162, R163: on a valid instance `STEP` completes; it writes `S.*`, `OUT.*` and `TEL.*` and nothing else of
the block but `STATUS`; the tick counter moves by 1 modulo 16; the results and the telemetry are those of this tick. -/
def Obligations.StepWritesResults : Prop :=
  ∀ s : State, calValid s.cal = true → ∃ t,
    exec .step s = .next t ∧ StepEffect s t ∧
    t.act.frame.toNat = (s.act.frame.toNat + 1) % 16 ∧
    t.out.torqueCode = (stepLocals s.cal s.inp s.act).torqueCode ∧
    t.out.speedTarget = (stepLocals s.cal s.inp s.act).speedTarget ∧
    t.out.accelCode = (stepLocals s.cal s.inp s.act).accelCode ∧
    t.out.brakeFrac = (stepLocals s.cal s.inp s.act).brakeLim ∧
    t.out.brakeCode = t.act.applyBrakeLast ∧ t.out.pumpOn = t.act.pumpOn ∧
    t.out.gearCode = (stepLocals s.cal s.inp s.act).gear ∧ t.out.frame = s.act.frame ∧
    t.tel.speed = (stepLocals s.cal s.inp s.act).speedTarget ∧
    t.tel.accel = (stepLocals s.cal s.inp s.act).drive.accel ∧
    t.tel.gas = (stepLocals s.cal s.inp s.act).drive.gas ∧
    t.tel.brake = (stepLocals s.cal s.inp s.act).brakeLim ∧
    t.tel.torque = (stepLocals s.cal s.inp s.act).tq ∧
    t.tel.torqueCode = (stepLocals s.cal s.inp s.act).torqueCode

/-- 41 R141: the conditioned operands of `STEP`, clamped and never rejected. -/
def Obligations.InputsAreClamped : Prop :=
  ∀ (c : Calibration) (i : Operands),
    (condition c i).aIn.toInt = min (max i.accelReq.toInt c.accelMin.toInt) c.accelMax.toInt ∧
    (condition c i).tqIn.toInt = min (max i.torqueReq.toInt (-65536)) 65536 ∧
    (condition c i).v.toInt = min (max i.speed.toInt 0) c.speedMax.toInt ∧
    (condition c i).active = i.longActive

/-- 41 R142 with the inactive arms of R153 and R154: with longitudinal control inactive, gas, raw brake and
acceleration are 0, and so are the speed target and the acceleration code. -/
def Obligations.InactiveForcesZero : Prop :=
  ∀ s : State, calValid s.cal = true → s.inp.longActive = false → ∃ t,
    exec .step s = .next t ∧ t.tel.accel = 0#32 ∧ t.tel.gas = 0#32 ∧
    (stepLocals s.cal s.inp s.act).drive.brakeRaw = 0#32 ∧ t.out.speedTarget = 0#32 ∧ t.tel.speed = 0#32 ∧
    t.out.accelCode = 0#16

/-- 41 R143: with longitudinal control active, the acceleration is the conditioned one, the creep term is the ramp
from `CREEP_BRAKE` at speed 0 down to 0 at `CREEP_SPEED`, and the balance is the acceleration over the gain less the
creep term. The premise on the speed is what 41 R141 gives. -/
def Obligations.CreepRampAndBalance : Prop :=
  ∀ (c : Calibration) (x : Conditioned), calValid c = true → x.active = true → 0 ≤ x.v.toInt →
    (stageDrive c x).accel = x.aIn ∧
    (x.v.toInt < c.creepSpeed.toInt →
      (creepTerm c x.v).toInt = c.creepBrake.toInt * (c.creepSpeed.toInt - x.v.toInt) / c.creepSpeed.toInt) ∧
    (c.creepSpeed.toInt ≤ x.v.toInt → creepTerm c x.v = 0#32) ∧
    0 ≤ (creepTerm c x.v).toInt ∧ (creepTerm c x.v).toInt ≤ c.creepBrake.toInt ∧
    (driveBalance c x.aIn x.v).toInt =
      min (max (min (max (x.aIn.toInt * 65536 / c.accelGain.toInt) fxMin) fxMax - (creepTerm c x.v).toInt) fxMin) fxMax

/-- 41 R144: the split of the balance into gas and raw brake, for any conditioned operands; and the drive of a `STEP` is
that of its own conditioned operands, its telemetry included. -/
def Obligations.BalanceIsSplit : Prop :=
  (∀ (c : Calibration) (x : Conditioned), x.active = true →
    (stageDrive c x).gas.toInt = min (max (driveBalance c x.aIn x.v).toInt 0) 65536 ∧
    (stageDrive c x).brakeRaw.toInt = min (max (-(driveBalance c x.aIn x.v).toInt) 0) 65536 ∧
    ((stageDrive c x).gas = 0#32 ∨ (stageDrive c x).brakeRaw = 0#32) ∧
    (fxsub (stageDrive c x).gas (stageDrive c x).brakeRaw).toInt =
      min (max (driveBalance c x.aIn x.v).toInt (-65536)) 65536) ∧
  ∀ s : State, calValid s.cal = true → s.inp.longActive = true → ∃ t b,
    exec .step s = .next t ∧
    b = (driveBalance s.cal (condition s.cal s.inp).aIn (condition s.cal s.inp).v).toInt ∧
    (stepLocals s.cal s.inp s.act).drive = stageDrive s.cal (condition s.cal s.inp) ∧
    t.tel.accel = (condition s.cal s.inp).aIn ∧
    t.tel.gas.toInt = min (max b 0) 65536 ∧
    (stepLocals s.cal s.inp s.act).drive.brakeRaw.toInt = min (max (-b) 0) 65536

/-- 41 R145: the torque moves toward the clamped request by at most `TQ_UP` upward and `TQ_DOWN` downward, on every
tick, and stays in [-1, 1]. -/
def Obligations.StepLimitsTorque : Prop :=
  ∀ s : State, calValid s.cal = true → ∃ t,
    exec .step s = .next t ∧
    t.act.lastTorque.toInt =
      min (max (min (max s.inp.torqueReq.toInt (-65536)) 65536)
        (max (s.act.lastTorque.toInt - s.cal.tqDown.toInt) fxMin))
        (min (s.act.lastTorque.toInt + s.cal.tqUp.toInt) fxMax) ∧
    -s.cal.tqDown.toInt ≤ t.act.lastTorque.toInt - s.act.lastTorque.toInt ∧
    t.act.lastTorque.toInt - s.act.lastTorque.toInt ≤ s.cal.tqUp.toInt ∧
    (TorqueInUnit s → TorqueInUnit t) ∧
    (s.inp.torqueReq.toInt = s.act.lastTorque.toInt → TorqueInUnit s → t.act.lastTorque = s.act.lastTorque)

/-- 41 R146, R147, R148: the latch, the forced-zero arm and the steady-update arm of the brake hysteresis. -/
def Obligations.BrakeHysteresisLaw : Prop :=
  ∀ s : State, calValid s.cal = true → ∃ t b,
    exec .step s = .next t ∧ b = (stepLocals s.cal s.inp s.act).drive.brakeRaw.toInt ∧
    (((s.act.braking = false ∧ b ≤ s.cal.hystOn.toInt) ∨ (s.act.braking = true ∧ b < s.cal.hystOff.toInt)) →
      t.act.braking = false ∧ t.act.brakeSteady = 0#32) ∧
    (((s.act.braking = false ∧ s.cal.hystOn.toInt < b) ∨ (s.act.braking = true ∧ s.cal.hystOff.toInt ≤ b)) →
      t.act.braking = true ∧
      t.act.brakeSteady.toInt =
        if s.act.brakeSteady.toInt + s.cal.hystGap.toInt < b then b - s.cal.hystGap.toInt
        else if b < s.act.brakeSteady.toInt - s.cal.hystGap.toInt then b + s.cal.hystGap.toInt
        else s.act.brakeSteady.toInt) ∧
    (stepLocals s.cal s.inp s.act).hyst.out = t.act.brakeSteady

/-- 41 section 4 (R149, which the spec marks as derived): while the latch is set the hysteresis output is positive, the
steady value ends within the gap of the raw brake and moves by at most its distance from it. -/
def Obligations.BrakeHysteresisSettles : Prop :=
  ∀ s : State, calValid s.cal = true → FractionsInUnit s → LatchMatchesSteady s → ∃ t b,
    exec .step s = .next t ∧ b = (stepLocals s.cal s.inp s.act).drive.brakeRaw.toInt ∧
    (t.act.braking = true →
      0 < t.act.brakeSteady.toInt ∧ |b - t.act.brakeSteady.toInt| ≤ s.cal.hystGap.toInt ∧
      |t.act.brakeSteady.toInt - s.act.brakeSteady.toInt| ≤ |b - s.act.brakeSteady.toInt|)

/-- 41 R150: the brake rises at once and falls by at most `BRAKE_REL` a tick. -/
def Obligations.BrakeReleaseIsLimited : Prop :=
  ∀ s : State, calValid s.cal = true → ∃ t,
    exec .step s = .next t ∧
    t.act.brakeLast.toInt =
      max (stepLocals s.cal s.inp s.act).hyst.out.toInt (max (s.act.brakeLast.toInt - s.cal.brakeRel.toInt) fxMin) ∧
    (FractionsInUnit s → 0 ≤ t.act.brakeLast.toInt ∧ t.act.brakeLast.toInt ≤ 65536)

/-- 41 section 6 (R151): the torque code of torque 0 is 0, its magnitude is at most the rounded greatest magnitude of a
table value, and a `STEP` reports the code of its own new torque, which fits the 32-bit register. -/
def Obligations.TorqueCodeIsBounded : Prop :=
  (∀ c : Calibration, calValid c = true →
    stageTorqueCode c 0#32 = 0 ∧
    ∀ (tq bound : Fx), (∀ x ∈ c.tq.v, |x.toInt| ≤ bound.toInt) → |stageTorqueCode c tq| ≤ roundNearest bound) ∧
  ∀ s : State, calValid s.cal = true → ∃ t,
    exec .step s = .next t ∧
    t.out.torqueCode.toInt =
      roundNearest (interpolate (fxneg t.act.lastTorque) (tablePoints (mirrorTable s.cal.tq)))

/-- 41 R151 also says `torqueCode(-tq) = -torqueCode(tq)`. Its own formula does not give that: the floor of 40 R120
rounds the two sides of the table differently. Stated to be refuted (log entry 9). -/
def Obligations.TorqueCodeIsOdd : Prop :=
  ∀ (c : Calibration) (tq : Fx), calValid c = true →
    stageTorqueCode c (fxneg tq) = -stageTorqueCode c tq

/-- 41 R153: the speed target, with its anchors clamped to [0, 100.0], for every curve; 0 when inactive. -/
def Obligations.SpeedTargetFollowsCurve : Prop :=
  ∀ s : State, calValid s.cal = true → ∃ t w d p a,
    exec .step s = .next t ∧
    w = interpolate (condition s.cal s.inp).v (tablePoints s.cal.wind) ∧
    d = stageDrive s.cal (condition s.cal s.inp) ∧
    (p, a) = speedCurveAt w (condition s.cal s.inp).v s.cal.speedCurve ∧
    (s.inp.longActive = true →
      t.out.speedTarget = interpolate (fxsub d.gas d.brakeRaw)
        [(p[0], fxclamp a[0] 0#32 6553600#32), (p[1], fxclamp a[1] 0#32 6553600#32),
          (p[2], fxclamp a[2] 0#32 6553600#32), (p[3], fxclamp a[3] 0#32 6553600#32)]) ∧
    (s.inp.longActive = false → t.out.speedTarget = 0#32) ∧
    0 ≤ t.out.speedTarget.toInt ∧ t.out.speedTarget.toInt ≤ 6553600

/-- 41 R154: the acceleration code; 0 when inactive and for an acceleration that is not positive. -/
def Obligations.AccelCodeOfAcceleration : Prop :=
  ∀ s : State, calValid s.cal = true → ∃ t a m,
    exec .step s = .next t ∧ a = (condition s.cal s.inp).aIn.toInt ∧
    m = (interpolate (condition s.cal s.inp).v (tablePoints s.cal.maxAcc)).toInt ∧ 0 < m ∧
    (s.inp.longActive = true →
      (t.out.accelCode.toNat : Int) =
        min (max (min (max (min (max (a * 65536 / s.cal.accelRatio.toInt) fxMin) fxMax * 65536 / m) fxMin) fxMax) 0)
          65536 * s.cal.gasMax.toNat / 65536) ∧
    (s.inp.longActive = true → a ≤ 0 → t.out.accelCode = 0#16) ∧
    (s.inp.longActive = false → t.out.accelCode = 0#16) ∧
    t.out.accelCode.toNat ≤ s.cal.gasMax.toNat

/-- 41 R155: the gear code is the entry of `GEAR_CODE` for the gear on the port. -/
def Obligations.GearCodeFromTable : Prop :=
  ∀ s : State, calValid s.cal = true → ∃ t,
    exec .step s = .next t ∧
    t.out.gearCode =
      match s.inp.gear with
      | .unknown => s.cal.gearCode[0]
      | .neutral => s.cal.gearCode[1]
      | .drive => s.cal.gearCode[2]
      | .reverse => s.cal.gearCode[3]

/-- 41 R158: the brake code on a protection tick (41 R157: an even tick index), in both readings of the scale. -/
def Obligations.BrakeCodeOnProtectionTick : Prop :=
  ∀ s : State, calValid s.cal = true → s.act.frame.toNat % 2 = 0 → ∃ t w ab,
    exec .step s = .next t ∧
    w = (interpolate (condition s.cal s.inp).v (tablePoints s.cal.wind)).toInt ∧
    ab = min (max (t.act.brakeLast.toInt - w) 0) 65536 ∧
    (t.act.applyBrakeLast.toNat : Int) =
      (match s.cal.brakeScaleMode with
      | .toMaxMinus1 => ab * ((s.cal.brakeMax.toNat : Int) - 1) / 65536
      | .toMaxThenClip => min (ab * s.cal.brakeMax.toNat / 65536) ((s.cal.brakeMax.toNat : Int) - 1)) ∧
    (ab = 0 → t.act.applyBrakeLast = 0#16) ∧
    (ab = 65536 → t.act.applyBrakeLast.toNat = s.cal.brakeMax.toNat - 1) ∧
    t.act.applyBrakeLast.toNat ≤ s.cal.brakeMax.toNat - 1

/-- 41 R159: the pump timer and the pump flag on a protection tick, time differences modulo 2^32. -/
def Obligations.PumpHysteresisLaw : Prop :=
  ∀ s : State, calValid s.cal = true → s.act.frame.toNat % 2 = 0 → ∃ t since,
    exec .step s = .next t ∧
    since = (s.inp.now.toNat + 2 ^ 32 - s.act.lastPumpTimestamp.toNat) % 2 ^ 32 ∧
    t.act.lastPumpTimestamp =
      (if s.act.applyBrakeLast.toNat < t.act.applyBrakeLast.toNat ∨
          (s.cal.pumpMaxInterval.toNat < since ∧ 0 < t.act.applyBrakeLast.toNat) then s.inp.now
        else s.act.lastPumpTimestamp) ∧
    (t.act.pumpOn = true ↔
      0 < t.act.applyBrakeLast.toNat ∧
        (s.inp.now.toNat + 2 ^ 32 - t.act.lastPumpTimestamp.toNat) % 2 ^ 32 < s.cal.pumpMinRun.toNat)

/-- 41 R160: on the other ticks the registers of stage 8 hold, the results repeat them, the brake fraction is fresh,
and the time is not read. -/
def Obligations.ProtectionHeldOnOtherTicks : Prop :=
  ∀ s : State, calValid s.cal = true → s.act.frame.toNat % 2 = 1 → ∃ t,
    exec .step s = .next t ∧
    t.act.applyBrakeLast = s.act.applyBrakeLast ∧ t.act.lastPumpTimestamp = s.act.lastPumpTimestamp ∧
    t.act.pumpOn = s.act.pumpOn ∧ t.out.brakeCode = s.act.applyBrakeLast ∧ t.out.pumpOn = s.act.pumpOn ∧
    t.out.brakeFrac = (stepLocals s.cal s.inp s.act).brakeLim ∧
    ∀ n : Time,
      exec .step { s with inp := { s.inp with now := n } } = .next { t with inp := { t.inp with now := n } }

/-! ### The encoder -/

/-- 42 section 2 with 30 R89 (a valid message): in the frame of ANY valid message every present slot, the counter field
and the checksum can be read back, and every bit that belongs to no field is 0. -/
def Obligations.FrameFieldsReadBack : Prop :=
  ∀ (h : MsgHeader) (slots : List Slot) (c : Count) (f : EncodedFrame),
    MessageValid h (slots.map Prod.fst) → f = encodedFrame h slots c →
    FrameOf h f ∧ (∀ k ∈ slots, SlotHolds f k.1 k.2) ∧
    (h.hasCnt = true → fieldAt f h.cntOffset 4 = c.toNat) ∧
    (h.hasCsum = true → f.payload.foldl (· ^^^ ·) 0#8 = 0xFF#8) ∧
    ∀ b : Nat, (∀ r ∈ usedRanges h (slots.map Prod.fst), ¬(r.1 ≤ b ∧ b < r.1 + r.2)) →
      (payloadNumber f.payload).testBit b = false

/-- 42 R183: `ENC.STEER` on a valid instance emits one frame with its three slots, whatever `IN.latActive` is. -/
def Obligations.SteerFrameHoldsItsSlots : Prop :=
  ∀ s : State, calValid s.cal = true → ∃ t f,
    exec .encSteer s = .next t ∧ t.batch = [f] ∧ FrameOf s.cal.msg.steer.hdr f ∧
    EncodeEffect s t 0 s.cal.msg.steer.hdr ∧
    SlotHolds f s.cal.msg.steer.active (if s.inp.latActive then 65536 else 0) ∧
    SlotHolds f s.cal.msg.steer.mode (s.inp.steerMode.toNat * 65536) ∧
    SlotHolds f s.cal.msg.steer.value
      (match s.cal.steerValueSrc with
      | .torque => s.out.torqueCode.toInt * 65536
      | .angle => min (-s.inp.angleCmd.toInt) fxMax)

/-- 42 R184, R194: `ENC.LONG` on a valid instance emits one frame with its six slots, the speed in wire units. -/
def Obligations.LongFrameHoldsItsSlots : Prop :=
  ∀ s : State, calValid s.cal = true → ∃ t f,
    exec .encLong s = .next t ∧ t.batch = [f] ∧ FrameOf s.cal.msg.long.hdr f ∧
    EncodeEffect s t 1 s.cal.msg.long.hdr ∧
    SlotHolds f s.cal.msg.long.active (if s.inp.longActive then 65536 else 0) ∧
    SlotHolds f s.cal.msg.long.mode (s.inp.longMode.toNat * 65536) ∧
    SlotHolds f s.cal.msg.long.gear (s.out.gearCode.toNat * 65536) ∧
    SlotHolds f s.cal.msg.long.speed (s.out.speedTarget.toInt * s.cal.speedUnitNum / s.cal.speedUnitDen) ∧
    SlotHolds f s.cal.msg.long.limit s.cal.speedLimit.toInt ∧
    SlotHolds f s.cal.msg.long.accel (s.out.accelCode.toNat * 65536)

/-- 42 R185: `ENC.BRAKE` on a valid instance emits one frame with its four slots: the percentage in pedal-position
mode, the code in pressure mode. -/
def Obligations.BrakeFrameHoldsItsSlots : Prop :=
  ∀ s : State, calValid s.cal = true → ∃ t f,
    exec .encBrake s = .next t ∧ t.batch = [f] ∧ FrameOf s.cal.msg.brake.hdr f ∧
    EncodeEffect s t 2 s.cal.msg.brake.hdr ∧
    SlotHolds f s.cal.msg.brake.active (if s.inp.longActive then 65536 else 0) ∧
    SlotHolds f s.cal.msg.brake.mode (if s.inp.brakeMode then 65536 else 0) ∧
    SlotHolds f s.cal.msg.brake.value
      (if s.inp.brakeMode then (s.out.brakeCode.toNat : Int) * 65536 else s.out.brakeFrac.toInt * 100) ∧
    SlotHolds f s.cal.msg.brake.pump (if s.out.pumpOn then 65536 else 0)

/-- 42 R186: `ENC.PARK` on a valid instance emits one frame with its two flags. -/
def Obligations.ParkFrameHoldsItsSlots : Prop :=
  ∀ s : State, calValid s.cal = true → ∃ t f,
    exec .encPark s = .next t ∧ t.batch = [f] ∧ FrameOf s.cal.msg.park.hdr f ∧
    EncodeEffect s t 3 s.cal.msg.park.hdr ∧
    SlotHolds f s.cal.msg.park.active (if s.inp.parkActive then 65536 else 0) ∧
    SlotHolds f s.cal.msg.park.enable (if s.inp.parkEnable then 65536 else 0)

/-- 42 R187: `ENC.STATE k` of a configured frame emits one frame with its eight signals. A row the host has not set
holds 0 (log entry 2). -/
def Obligations.StateFrameHoldsItsSignals : Prop :=
  ∀ (s : State) (k : Nat) (msg : StateMsg), calValid s.cal = true → s.cal.msg.state[k]? = some msg → ∃ t f m,
    exec (.encState k) s = .next t ∧ t.batch = [f] ∧ FrameOf msg.hdr f ∧
    m.val = 4 + k ∧ EncodeEffect s t m msg.hdr ∧
    ∀ j : Fin 8, SlotHolds f msg.sig[j]
      (match s.inp.stateVal[k]? with
      | some row => row[j].toInt
      | none => 0)

/-- 42 R188: the frame of a message with a counter carries the value before the increment; the counter of that message
alone moves, by 1 modulo 16; a command that ends in an error moves none. -/
def Obligations.CounterCarriedThenAdvanced : Prop :=
  (∀ (s : State) (i : Instr) (m : MsgIndex) (h : MsgHeader) (ds : List Descriptor),
    calValid s.cal = true → encodedMessage s.cal i = some (m, h, ds) → ∃ t f,
      exec i s = .next t ∧ t.batch = [f] ∧ EncodeEffect s t m h ∧
      (h.hasCnt = true → fieldAt f h.cntOffset 4 = (s.rc[m]).toNat)) ∧
  ∀ (s t : State) (i : Instr), exec i s = .next t → t.status.code ≠ .ok → t.rc = s.rc ∧ t.batch = []

/-- 42 R189: the last byte of a frame with a checksum is `XorChecksum` of the bytes before it. -/
def Obligations.ChecksumInLastByte : Prop :=
  ∀ (s : State) (i : Instr) (m : MsgIndex) (h : MsgHeader) (ds : List Descriptor),
    calValid s.cal = true → encodedMessage s.cal i = some (m, h, ds) → h.hasCsum = true → ∃ t f,
      exec i s = .next t ∧ t.batch = [f] ∧
      f.payload.getLast? = some (f.payload.dropLast.foldl (· ^^^ ·) 0#8 ^^^ 0xFF#8)

/-- 42 section 1 (R180): an encode neither reads nor writes `S.*` and `TEL.*`, and never reads the time. -/
def Obligations.EncodesIgnoreActuatorState : Prop :=
  ∀ (s t : State) (i : Instr) (a : ActuatorState) (l : Telemetry) (n : Time),
    i ≠ .step → i ≠ .tick → exec i s = .next t →
    exec i { s with act := a, tel := l, inp := { s.inp with now := n } } =
      .next { t with act := a, tel := l, inp := { t.inp with now := n } }

/-- 10 section 2 (R25): `IN.cancel` has no effect on any command. -/
def Obligations.CancelHasNoEffect : Prop :=
  ∀ (s t : State) (i : Instr) (b : Bool), exec i s = .next t →
    exec i { s with inp := { s.inp with cancel := b } } = .next { t with inp := { t.inp with cancel := b } }

/-! ### TICK -/

/-- 43 section 1 (R214, which the spec marks as derived, from R210 to R212): a `TICK` is a `STEP` followed by the
encodes of exactly the messages that pass the gate, in message order: the same state and the same frames. -/
def Obligations.TickIsStepThenGatedEncodes : Prop :=
  ∀ s : State, calValid s.cal = true → ∃ t u frames,
    exec .tick s = .next t ∧
    runCommands (.step :: gatedCommands s.cal s.act.frame) s = some (u, frames) ∧
    t = { u with batch := frames }

/-- 43 R211, R212: the batch of a `TICK` is the frames of the messages whose divisor divides the index of the tick, in
message order. -/
def Obligations.TickSendsGatedMessagesInOrder : Prop :=
  ∀ s : State, calValid s.cal = true → ∃ t,
    exec .tick s = .next t ∧ t.out.frame = s.act.frame ∧
    t.batch.map (fun f => (f.id, f.bus, f.len)) =
      ((messages s.cal.msg).filter fun m => decide (s.act.frame.toNat % m.1.div = 0)).map
        fun m => (m.1.id, m.1.bus, m.1.len)

/-- 43 section 1 (R210): a `TICK` leaves `S.*`, `OUT.*` and `TEL.*` as its `STEP` does, completes with `OK`, and
advances exactly the counters of the messages it sends. -/
def Obligations.TickTakesItsStep : Prop :=
  ∀ s : State, calValid s.cal = true → ∃ t u,
    exec .tick s = .next t ∧ exec .step s = .next u ∧
    t.act = u.act ∧ t.out = u.out ∧ t.tel = u.tel ∧ StatusOk s t ∧ PortsKept s t ∧
    ∀ m : MsgIndex,
      match (messages s.cal.msg)[m.val]? with
      | some (h, _) =>
        (t.rc[m]).toNat =
          if h.hasCnt = true ∧ s.act.frame.toNat % h.div = 0 then ((s.rc[m]).toNat + 1) % 16 else (s.rc[m]).toNat
      | none => t.rc[m] = s.rc[m]

/-! ### Primitives -/

/-- 40 R110: addition, subtraction and negation saturate and never wrap; the first two are monotone in their first
operand. -/
def Obligations.SaturatingArithmetic : Prop :=
  (∀ a b : Fx,
    (fxadd a b).toInt = min (max (a.toInt + b.toInt) (-2147483648)) 2147483647 ∧
    (fxsub a b).toInt = min (max (a.toInt - b.toInt) (-2147483648)) 2147483647 ∧
    (fxneg a).toInt = min (max (-a.toInt) (-2147483648)) 2147483647) ∧
  ∀ a a' b : Fx, a.toInt ≤ a'.toInt →
    (fxadd a b).toInt ≤ (fxadd a' b).toInt ∧ (fxsub a b).toInt ≤ (fxsub a' b).toInt

/-- 40 R112: for a divisor that is not 0 the quotient is the mathematical floor, for every combination of signs, then
saturated. -/
def Obligations.FxdivIsSaturatedFloor : Prop :=
  ∀ a b : Fx, b.toInt ≠ 0 → ∃ q : Int,
    (0 < b.toInt → q * b.toInt ≤ a.toInt * 65536 ∧ a.toInt * 65536 < (q + 1) * b.toInt) ∧
    (b.toInt < 0 → a.toInt * 65536 ≤ q * b.toInt ∧ (q + 1) * b.toInt < a.toInt * 65536) ∧
    (fxdiv a b).toInt = min (max q (-2147483648)) 2147483647

/-- 40 R116: nearest integer, ties away from zero, odd. -/
def Obligations.RoundNearestTiesAway : Prop :=
  ∀ a : Fx,
    2 * |a.toInt - 65536 * roundNearest a| ≤ 65536 ∧
    (2 * |a.toInt - 65536 * roundNearest a| = 65536 → |a.toInt| < |65536 * roundNearest a|) ∧
    roundNearest (fxneg a) = -roundNearest a

/-- 40 R117: the code of a fraction in [0, 1] is the truncated product, 0 at 0, the maximum at 1, non-decreasing. -/
def Obligations.ToCodeTruncates : Prop :=
  ∀ (f g : Fx) (m : Nat), 0 ≤ f.toInt → f.toInt ≤ g.toInt → g.toInt ≤ 65536 →
    toCode f m * 65536 ≤ f.toInt * m ∧ f.toInt * m < (toCode f m + 1) * 65536 ∧
    toCode f m ≤ toCode g m ∧ toCode 0#32 m = 0 ∧ toCode 65536#32 m = m

/-- 40 R118: for a positive scale the raw field is the nearest integer to the quotient, ties away from zero; a code at
scale 1.0 is itself. -/
def Obligations.QuantRoundsToNearest : Prop :=
  (∀ (p : Int) (scale : Fx), 0 < scale.toInt →
    2 * |p - scale.toInt * quant p scale| ≤ scale.toInt ∧
    (2 * |p - scale.toInt * quant p scale| = scale.toInt → |p| < |scale.toInt * quant p scale|)) ∧
  ∀ c : Int, quant (c * 65536) fxOne = c

/-- 40 R120: below the first breakpoint, at or above the last, and on the segment the search finds; any table of points,
strictly increasing or not. -/
def Obligations.InterpolateFollowsItsTable : Prop :=
  ∀ (x : Fx) (t : List Point) (first last : Point), t.head? = some first → t.getLast? = some last →
    (x.toInt ≤ first.1.toInt → interpolate x t = first.2) ∧
    (first.1.toInt < x.toInt → last.1.toInt ≤ x.toInt → interpolate x t = last.2) ∧
    (first.1.toInt < x.toInt → x.toInt < last.1.toInt →
      ∀ (j : Nat) (a b : Point), t[j]? = some a → t[j + 1]? = some b → x.toInt < b.1.toInt →
        (∀ (k : Nat) (p : Point), 1 ≤ k → k ≤ j → t[k]? = some p → p.1.toInt ≤ x.toInt) →
        0 < b.1.toInt - a.1.toInt ∧
        (interpolate x t).toInt =
          a.2.toInt + (b.2.toInt - a.2.toInt) * (x.toInt - a.1.toInt) / (b.1.toInt - a.1.toInt))

/-- 40 section 2 (R121 item 1, which the spec marks as derived): at each breakpoint of strictly increasing points the
lookup answers the value there, however many points there are; so it does for a valid calibration table and for the
mirrored torque table. -/
def Obligations.InterpolateExactAtBreakpoints : Prop :=
  (∀ (t : List Point) (i : Nat) (p : Point), t.Pairwise (fun a b => a.1.toInt < b.1.toInt) → t[i]? = some p →
    interpolate p.1 t = p.2) ∧
  (∀ (t : Table) (i : Nat) (p : Point), TableValid t → tabRead t i = some p →
    interpolate p.1 (tablePoints t) = p.2) ∧
  ∀ (t : Table) (i : Nat) (p : Point), TableValid t → t.bp.head? = some 0#32 → t.v.head? = some 0#32 →
    tabRead (mirrorTable t) i = some p → interpolate p.1 (tablePoints (mirrorTable t)) = p.2

/-- 40 section 3 (R123, which the spec marks as derived): a rate limiter stays between its target and the previous
value, moves by at most its limits, and reaches a target within them. -/
def Obligations.RateLimitStaysInWindow : Prop :=
  ∀ (target previous down up : Fx), 0 ≤ down.toInt → 0 ≤ up.toInt →
    min previous.toInt target.toInt ≤ (rateLimit target previous down up).toInt ∧
    (rateLimit target previous down up).toInt ≤ max previous.toInt target.toInt ∧
    -down.toInt ≤ (rateLimit target previous down up).toInt - previous.toInt ∧
    (rateLimit target previous down up).toInt - previous.toInt ≤ up.toInt ∧
    (previous.toInt - down.toInt ≤ target.toInt → target.toInt ≤ previous.toInt + up.toInt →
      rateLimit target previous down up = target)

/-- 40 R124: the mirrored table has 2n - 1 points: the negated table in reverse, (0, 0), and the table after its first
point; its breakpoints are strictly increasing, and it is odd unless a value is `FX_MIN`. -/
def Obligations.MirrorTableIsOdd : Prop :=
  ∀ t : Table, TableValid t → t.bp.head? = some 0#32 → t.v.head? = some 0#32 →
    (mirrorTable t).bp.length = 2 * t.bp.length - 1 ∧ (mirrorTable t).v.length = 2 * t.bp.length - 1 ∧
    (∀ (i : Nat) (b v : Fx), i + 1 < t.bp.length → t.bp[t.bp.length - 1 - i]? = some b →
      t.v[t.bp.length - 1 - i]? = some v → tabRead (mirrorTable t) i = some (fxneg b, fxneg v)) ∧
    tabRead (mirrorTable t) (t.bp.length - 1) = some (0#32, 0#32) ∧
    (∀ (i : Nat) (p : Point), 1 ≤ i → tabRead t i = some p →
      tabRead (mirrorTable t) (t.bp.length - 1 + i) = some p) ∧
    (mirrorTable t).bp.Pairwise (fun a b => a.toInt < b.toInt) ∧
    ((∀ x ∈ t.v, fxMin < x.toInt) → ∀ (i : Nat) (p q : Point), tabRead (mirrorTable t) i = some p →
      tabRead (mirrorTable t) (2 * t.bp.length - 2 - i) = some q → i + 1 < 2 * t.bp.length →
        q.1.toInt = -p.1.toInt ∧ q.2.toInt = -p.2.toInt)

/-- 20 R65: the field takes the low bits of the two's complement value, every other bit is unchanged. -/
def Obligations.PayloadInsertWritesItsField : Prop :=
  ∀ (p : Payload) (off w : Nat) (q : Int), 1 ≤ w → w ≤ 32 → off + w ≤ 64 →
    (((payloadInsert p off w q).toNat / 2 ^ off % 2 ^ w : Nat) : Int) = q % 2 ^ w ∧
    ∀ i : Nat, i < off ∨ off + w ≤ i → (payloadInsert p off w q).getLsbD i = p.getLsbD i

/-- 40 section 5 (R126, which the spec marks as derived): appending the checksum gives checksum 0, and a change of any
one byte changes the checksum. -/
def Obligations.ChecksumDetectsOneByte : Prop :=
  (∀ l : List Byte, xorChecksum (l ++ [xorChecksum l]) = 0#8) ∧
  ∀ (l r : List Byte) (b b' : Byte), b ≠ b' → xorChecksum (l ++ b :: r) ≠ xorChecksum (l ++ b' :: r)

/-- 40 R119: a raw value inside the range of its field is itself, one above it is the greatest value of the field, one
below it the least; unsigned and two's complement, every width. -/
def Obligations.SatFieldSaturates : Prop :=
  ∀ (q : Int) (w : Nat), 1 ≤ w →
    (0 ≤ q → q < 2 ^ w → satField q w false = q) ∧
    (2 ^ w ≤ q → satField q w false = 2 ^ w - 1) ∧
    (q < 0 → satField q w false = 0) ∧
    (-2 ^ (w - 1) ≤ q → q < 2 ^ (w - 1) → satField q w true = q) ∧
    (2 ^ (w - 1) ≤ q → satField q w true = 2 ^ (w - 1) - 1) ∧
    (q < -2 ^ (w - 1) → satField q w true = -2 ^ (w - 1))
end

