-- ==== Sys2Proof/Laws/Arith.lean ====
section
/-! SUPPORT. What the arithmetic operations do, as facts about the signed integers their operands stand for. -/

namespace Sys2Proof.Machine

/-- An fx value lies in its range (00 R9). -/
theorem fx_range (x : Fx) : fxMin ≤ x.toInt ∧ x.toInt ≤ fxMax := by
  have h1 := BitVec.le_toInt x
  have h2 := BitVec.toInt_lt (x := x)
  constructor
  · simpa [fxMin] using h1
  · simp [fxMax] at h2 ⊢; omega

/-- An integer in the range of fx is the value of its fx. -/
theorem toInt_ofInt_of_range {z : Int} (h1 : fxMin ≤ z) (h2 : z ≤ fxMax) : (BitVec.ofInt 32 z).toInt = z := by
  apply BitVec.toInt_ofInt_eq_self (by decide) <;> simp [fxMin, fxMax] at * <;> omega

/-- Saturation (00 R10). -/
@[simp] theorem toInt_sat32 (z : Int) : (sat32 z).toInt = min (max z fxMin) fxMax := by
  unfold sat32
  apply toInt_ofInt_of_range <;> simp only [fxMin, fxMax] <;> omega

/-- Saturation leaves a value in range as it is. -/
theorem toInt_sat32_of_range {z : Int} (h1 : fxMin ≤ z) (h2 : z ≤ fxMax) : (sat32 z).toInt = z := by
  rw [toInt_sat32]; omega

@[simp] theorem toInt_fxadd (a b : Fx) : (fxadd a b).toInt = min (max (a.toInt + b.toInt) fxMin) fxMax :=
  toInt_sat32 _

@[simp] theorem toInt_fxsub (a b : Fx) : (fxsub a b).toInt = min (max (a.toInt - b.toInt) fxMin) fxMax :=
  toInt_sat32 _

@[simp] theorem toInt_fxneg (a : Fx) : (fxneg a).toInt = min (max (-a.toInt) fxMin) fxMax :=
  toInt_sat32 _

/-- `clamp` of fx values is `clamp` of the integers. -/
@[simp] theorem toInt_fxclamp (x lo hi : Fx) :
    (fxclamp x lo hi).toInt = clamp x.toInt lo.toInt hi.toInt := by
  have hx := fx_range x
  have hl := fx_range lo
  have hh := fx_range hi
  unfold fxclamp
  apply toInt_ofInt_of_range <;> unfold clamp <;> omega

@[simp] theorem toInt_fxmax (a b : Fx) : (fxmax a b).toInt = max a.toInt b.toInt := by
  unfold fxmax; split <;> omega

@[simp] theorem toInt_fxOne : fxOne.toInt = 65536 := by decide

@[simp] theorem toInt_fxHundred : fxHundred.toInt = 6553600 := by decide

/-- The bounds of `clamp` (40 R114). -/
theorem clamp_mem {x lo hi : Int} (h : lo ≤ hi) : lo ≤ clamp x lo hi ∧ clamp x lo hi ≤ hi := by
  unfold clamp; omega

/-- Floor division by a positive divisor is Lean's division of integers. -/
theorem floorDiv_of_pos {a d : Int} (h : 0 < d) : floorDiv a d = a / d := by
  unfold floorDiv
  rw [if_neg (by omega), Int.fdiv_eq_ediv_of_nonneg _ (by omega)]

/-- Two fx values with the same integer are the same. -/
theorem fx_ext {a b : Fx} (h : a.toInt = b.toInt) : a = b := BitVec.eq_of_toInt_eq h

/-- A code of a fraction in [0, 1] (40 R117). -/
theorem toCode_range {f : Fx} (m : Nat) (h0 : 0 ≤ f.toInt) (h1 : f.toInt ≤ 65536) :
    0 ≤ toCode f m ∧ toCode f m ≤ m := by
  unfold toCode
  rw [floorDiv_of_pos (by decide)]
  have hm : (0 : Int) ≤ m := Int.natCast_nonneg m
  constructor
  · exact Int.ediv_nonneg (Int.mul_nonneg h0 hm) (by decide)
  · apply Int.ediv_le_of_le_mul (by decide)
    rw [Int.mul_comm]
    exact Int.mul_le_mul_of_nonneg_left h1 hm

/-- A saturated value lies in the range of its field (40 R119). -/
theorem satField_range (q : Int) (w : Nat) (signed : Bool) :
    if signed then -2 ^ (w - 1) ≤ satField q w signed ∧ satField q w signed < 2 ^ (w - 1)
    else 0 ≤ satField q w signed ∧ satField q w signed < 2 ^ w := by
  have h1 : (0 : Int) < 2 ^ (w - 1) := Int.pow_pos (by decide)
  have h2 : (0 : Int) < 2 ^ w := Int.pow_pos (by decide)
  cases signed <;> simp only [satField, Bool.false_eq_true, if_true, if_false] <;> unfold clamp <;> omega

end Sys2Proof.Machine
end

