-- ==== Sys2Proof/Laws/State.lean ====
section
/-! SUPPORT. What each update of the state leaves in each field: one lemma per field per update. -/

namespace Sys2Proof.Machine

/-! ### `raise` -/

@[simp] theorem raise_act (e : StatusCode) (s : State) : (raise e s).act = s.act := rfl
@[simp] theorem raise_rc (e : StatusCode) (s : State) : (raise e s).rc = s.rc := rfl
@[simp] theorem raise_status (e : StatusCode) (s : State) :
    (raise e s).status = { code := e, encErrSeen := s.status.encErrSeen || decide (e = .errEncode), cmdErrSeen := s.status.cmdErrSeen || decide (e = .errCmd) } := rfl
@[simp] theorem raise_out (e : StatusCode) (s : State) : (raise e s).out = s.out := rfl
@[simp] theorem raise_tel (e : StatusCode) (s : State) : (raise e s).tel = s.tel := rfl
@[simp] theorem raise_cal (e : StatusCode) (s : State) : (raise e s).cal = s.cal := rfl
@[simp] theorem raise_inp (e : StatusCode) (s : State) : (raise e s).inp = s.inp := rfl
@[simp] theorem raise_pending (e : StatusCode) (s : State) : (raise e s).pending = s.pending := rfl
@[simp] theorem raise_batch (e : StatusCode) (s : State) : (raise e s).batch = [] := rfl

/-! ### `startBatch` -/

@[simp] theorem startBatch_act (s : State) : (startBatch s).act = s.act := rfl
@[simp] theorem startBatch_rc (s : State) : (startBatch s).rc = s.rc := rfl
@[simp] theorem startBatch_status (s : State) : (startBatch s).status = s.status := rfl
@[simp] theorem startBatch_out (s : State) : (startBatch s).out = s.out := rfl
@[simp] theorem startBatch_tel (s : State) : (startBatch s).tel = s.tel := rfl
@[simp] theorem startBatch_cal (s : State) : (startBatch s).cal = s.cal := rfl
@[simp] theorem startBatch_inp (s : State) : (startBatch s).inp = s.inp := rfl
@[simp] theorem startBatch_pending (s : State) : (startBatch s).pending = s.pending := rfl
@[simp] theorem startBatch_batch (s : State) : (startBatch s).batch = [] := rfl

/-! ### `complete` -/

@[simp] theorem complete_act (s : State) : (complete s).act = s.act := rfl
@[simp] theorem complete_rc (s : State) : (complete s).rc = s.rc := rfl
@[simp] theorem complete_status (s : State) : (complete s).status = { s.status with code := .ok } := rfl
@[simp] theorem complete_out (s : State) : (complete s).out = s.out := rfl
@[simp] theorem complete_tel (s : State) : (complete s).tel = s.tel := rfl
@[simp] theorem complete_cal (s : State) : (complete s).cal = s.cal := rfl
@[simp] theorem complete_inp (s : State) : (complete s).inp = s.inp := rfl
@[simp] theorem complete_pending (s : State) : (complete s).pending = s.pending := rfl
@[simp] theorem complete_batch (s : State) : (complete s).batch = s.batch := rfl

/-! ### `emit` -/

@[simp] theorem emit_act (f : EncodedFrame) (s : State) : (emit f s).act = s.act := rfl
@[simp] theorem emit_rc (f : EncodedFrame) (s : State) : (emit f s).rc = s.rc := rfl
@[simp] theorem emit_status (f : EncodedFrame) (s : State) : (emit f s).status = s.status := rfl
@[simp] theorem emit_out (f : EncodedFrame) (s : State) : (emit f s).out = s.out := rfl
@[simp] theorem emit_tel (f : EncodedFrame) (s : State) : (emit f s).tel = s.tel := rfl
@[simp] theorem emit_cal (f : EncodedFrame) (s : State) : (emit f s).cal = s.cal := rfl
@[simp] theorem emit_inp (f : EncodedFrame) (s : State) : (emit f s).inp = s.inp := rfl
@[simp] theorem emit_pending (f : EncodedFrame) (s : State) : (emit f s).pending = s.pending := rfl
@[simp] theorem emit_batch (f : EncodedFrame) (s : State) : (emit f s).batch = s.batch ++ [f] := rfl

/-! ### `advanceCounter` -/

@[simp] theorem advanceCounter_act (m : MsgIndex) (h : MsgHeader) (s : State) :
    (advanceCounter m h s).act = s.act := rfl
@[simp] theorem advanceCounter_rc (m : MsgIndex) (h : MsgHeader) (s : State) :
    (advanceCounter m h s).rc = if h.hasCnt then s.rc.set m (counterNext s.rc[m]) else s.rc := rfl
@[simp] theorem advanceCounter_status (m : MsgIndex) (h : MsgHeader) (s : State) :
    (advanceCounter m h s).status = s.status := rfl
@[simp] theorem advanceCounter_out (m : MsgIndex) (h : MsgHeader) (s : State) :
    (advanceCounter m h s).out = s.out := rfl
@[simp] theorem advanceCounter_tel (m : MsgIndex) (h : MsgHeader) (s : State) :
    (advanceCounter m h s).tel = s.tel := rfl
@[simp] theorem advanceCounter_cal (m : MsgIndex) (h : MsgHeader) (s : State) :
    (advanceCounter m h s).cal = s.cal := rfl
@[simp] theorem advanceCounter_inp (m : MsgIndex) (h : MsgHeader) (s : State) :
    (advanceCounter m h s).inp = s.inp := rfl
@[simp] theorem advanceCounter_pending (m : MsgIndex) (h : MsgHeader) (s : State) :
    (advanceCounter m h s).pending = s.pending := rfl
@[simp] theorem advanceCounter_batch (m : MsgIndex) (h : MsgHeader) (s : State) :
    (advanceCounter m h s).batch = s.batch := rfl

/-! ### `encodeMessage` -/

@[simp] theorem encodeMessage_act (m : MsgIndex) (h : MsgHeader) (l : List Slot) (s : State) :
    (encodeMessage m h l s).act = s.act := rfl
@[simp] theorem encodeMessage_rc (m : MsgIndex) (h : MsgHeader) (l : List Slot) (s : State) :
    (encodeMessage m h l s).rc = if h.hasCnt then s.rc.set m (counterNext s.rc[m]) else s.rc := rfl
@[simp] theorem encodeMessage_status (m : MsgIndex) (h : MsgHeader) (l : List Slot) (s : State) :
    (encodeMessage m h l s).status = s.status := rfl
@[simp] theorem encodeMessage_out (m : MsgIndex) (h : MsgHeader) (l : List Slot) (s : State) :
    (encodeMessage m h l s).out = s.out := rfl
@[simp] theorem encodeMessage_tel (m : MsgIndex) (h : MsgHeader) (l : List Slot) (s : State) :
    (encodeMessage m h l s).tel = s.tel := rfl
@[simp] theorem encodeMessage_cal (m : MsgIndex) (h : MsgHeader) (l : List Slot) (s : State) :
    (encodeMessage m h l s).cal = s.cal := rfl
@[simp] theorem encodeMessage_inp (m : MsgIndex) (h : MsgHeader) (l : List Slot) (s : State) :
    (encodeMessage m h l s).inp = s.inp := rfl
@[simp] theorem encodeMessage_pending (m : MsgIndex) (h : MsgHeader) (l : List Slot) (s : State) :
    (encodeMessage m h l s).pending = s.pending := rfl
@[simp] theorem encodeMessage_batch (m : MsgIndex) (h : MsgHeader) (l : List Slot) (s : State) :
    (encodeMessage m h l s).batch = s.batch ++ [encodedFrame h l s.rc[m]] := rfl

/-! ### `runStep` -/

@[simp] theorem runStep_act (s : State) : (runStep s).act = nextActuator (stepLocals s.cal s.inp s.act) s.act := rfl
@[simp] theorem runStep_rc (s : State) : (runStep s).rc = s.rc := rfl
@[simp] theorem runStep_status (s : State) : (runStep s).status = s.status := rfl
@[simp] theorem runStep_out (s : State) :
    (runStep s).out = stepResults (stepLocals s.cal s.inp s.act) s.act.frame := rfl
@[simp] theorem runStep_tel (s : State) : (runStep s).tel = stepTelemetry (stepLocals s.cal s.inp s.act) := rfl
@[simp] theorem runStep_cal (s : State) : (runStep s).cal = s.cal := rfl
@[simp] theorem runStep_inp (s : State) : (runStep s).inp = s.inp := rfl
@[simp] theorem runStep_pending (s : State) : (runStep s).pending = s.pending := rfl
@[simp] theorem runStep_batch (s : State) : (runStep s).batch = s.batch := rfl

/-! ### `drivePorts` -/

@[simp] theorem drivePorts_act (o : Operands) (s : State) : (drivePorts o s).act = s.act := rfl
@[simp] theorem drivePorts_rc (o : Operands) (s : State) : (drivePorts o s).rc = s.rc := rfl
@[simp] theorem drivePorts_status (o : Operands) (s : State) : (drivePorts o s).status = s.status := rfl
@[simp] theorem drivePorts_out (o : Operands) (s : State) : (drivePorts o s).out = s.out := rfl
@[simp] theorem drivePorts_tel (o : Operands) (s : State) : (drivePorts o s).tel = s.tel := rfl
@[simp] theorem drivePorts_cal (o : Operands) (s : State) : (drivePorts o s).cal = s.cal := rfl
@[simp] theorem drivePorts_inp (o : Operands) (s : State) : (drivePorts o s).inp = o := rfl
@[simp] theorem drivePorts_pending (o : Operands) (s : State) : (drivePorts o s).pending = s.pending := rfl
@[simp] theorem drivePorts_batch (o : Operands) (s : State) : (drivePorts o s).batch = s.batch := rfl

/-! ### `resetBlock` -/

@[simp] theorem resetBlock_act (s : State) : (resetBlock s).act = .zero := rfl
@[simp] theorem resetBlock_rc (s : State) : (resetBlock s).rc = Vector.replicate 16 0#4 := rfl
@[simp] theorem resetBlock_status (s : State) : (resetBlock s).status = .zero := rfl
@[simp] theorem resetBlock_out (s : State) : (resetBlock s).out = .zero := rfl
@[simp] theorem resetBlock_tel (s : State) : (resetBlock s).tel = .zero := rfl
@[simp] theorem resetBlock_cal (s : State) : (resetBlock s).cal = s.cal := rfl
@[simp] theorem resetBlock_inp (s : State) : (resetBlock s).inp = s.inp := rfl
@[simp] theorem resetBlock_pending (s : State) : (resetBlock s).pending = s.pending := rfl
@[simp] theorem resetBlock_batch (s : State) : (resetBlock s).batch = [] := rfl

/-! ### `withFetchWord` -/

@[simp] theorem withFetchWord_act (s : State) (n w : Nat) : (s.withFetchWord n w).act = s.act := rfl
@[simp] theorem withFetchWord_rc (s : State) (n w : Nat) : (s.withFetchWord n w).rc = s.rc := rfl
@[simp] theorem withFetchWord_status (s : State) (n w : Nat) : (s.withFetchWord n w).status = s.status := rfl
@[simp] theorem withFetchWord_out (s : State) (n w : Nat) : (s.withFetchWord n w).out = s.out := rfl
@[simp] theorem withFetchWord_tel (s : State) (n w : Nat) : (s.withFetchWord n w).tel = s.tel := rfl
@[simp] theorem withFetchWord_cal (s : State) (n w : Nat) : (s.withFetchWord n w).cal = s.cal := rfl
@[simp] theorem withFetchWord_inp (s : State) (n w : Nat) : (s.withFetchWord n w).inp = s.inp := rfl
@[simp] theorem withFetchWord_pending (s : State) (n w : Nat) :
    (s.withFetchWord n w).pending = .command (BitVec.ofNat 8 (w % 2 ^ n)) :: s.pending := rfl
@[simp] theorem withFetchWord_batch (s : State) (n w : Nat) : (s.withFetchWord n w).batch = s.batch := rfl

/-! ### `withTrace` -/

@[simp] theorem withTrace_act (s : State) (t : List HostItem) : (s.withTrace t).act = s.act := rfl
@[simp] theorem withTrace_rc (s : State) (t : List HostItem) : (s.withTrace t).rc = s.rc := rfl
@[simp] theorem withTrace_status (s : State) (t : List HostItem) : (s.withTrace t).status = s.status := rfl
@[simp] theorem withTrace_out (s : State) (t : List HostItem) : (s.withTrace t).out = s.out := rfl
@[simp] theorem withTrace_tel (s : State) (t : List HostItem) : (s.withTrace t).tel = s.tel := rfl
@[simp] theorem withTrace_cal (s : State) (t : List HostItem) : (s.withTrace t).cal = s.cal := rfl
@[simp] theorem withTrace_inp (s : State) (t : List HostItem) : (s.withTrace t).inp = s.inp := rfl
@[simp] theorem withTrace_pending (s : State) (t : List HostItem) : (s.withTrace t).pending = t ++ s.pending := rfl
@[simp] theorem withTrace_batch (s : State) (t : List HostItem) : (s.withTrace t).batch = s.batch := rfl

end Sys2Proof.Machine
end

