-- ==== Sys2Proof/Laws/CalValid.lean ====
section
/-! SUPPORT. `CalValid` taken apart, and the configuration fault (10 R36, 00 R7). -/

namespace Sys2Proof.Machine

/-- `CalValid` is the conjunction of its four parts (00 R7). -/
theorem calValid_iff (c : Calibration) :
    calValid c = true ↔ ScalarsValid c ∧ HystValid c ∧ TablesValid c ∧ LayoutValid c.msg := by
  simp only [calValid, Bool.and_eq_true, decide_eq_true_eq, and_assoc]

theorem scalarsValid_of_calValid {c : Calibration} (h : calValid c = true) : ScalarsValid c :=
  ((calValid_iff c).1 h).1

theorem hystValid_of_calValid {c : Calibration} (h : calValid c = true) : HystValid c :=
  ((calValid_iff c).1 h).2.1

theorem tablesValid_of_calValid {c : Calibration} (h : calValid c = true) : TablesValid c :=
  ((calValid_iff c).1 h).2.2.1

theorem layoutValid_of_calValid {c : Calibration} (h : calValid c = true) : LayoutValid c.msg :=
  ((calValid_iff c).1 h).2.2.2

/-- Every value of a valid `MAXACC` table is positive (00 R6). -/
theorem maxAcc_pos {c : Calibration} (h : calValid c = true) : ∀ x ∈ c.maxAcc.v, 0 < x.toInt := by
  obtain ⟨-, -, -, -, -, hv, -⟩ := tablesValid_of_calValid h
  simpa using List.all_eq_true.1 hv

/-- `STATUS.cfgFault` is 0 exactly under `CalValid` (10 R36). -/
theorem cfgFault_eq_false (s : State) : s.cfgFault = false ↔ calValid s.cal = true := by
  simp [State.cfgFault]

/-- `STATUS.cfgFault` is 1 exactly when `CalValid` fails (10 R36). -/
theorem cfgFault_eq_true (s : State) : s.cfgFault = true ↔ calValid s.cal = false := by
  simp [State.cfgFault]

end Sys2Proof.Machine
end

