-- ==== Sys2Proof/Laws/Lookup.lean ====
section
/-! SUPPORT. What a lookup answers: a value between the values of its table (40 R121). -/

namespace Sys2Proof.Machine

/-- On a segment the answer lies between the two values (40 R121 item 2), so within any bounds on both. -/
theorem onSegment_range {x : Fx} {a b : Point} {lo hi : Int}
    (h1 : a.1.toInt ≤ x.toInt) (h2 : x.toInt < b.1.toInt)
    (ha : lo ≤ a.2.toInt ∧ a.2.toInt ≤ hi) (hb : lo ≤ b.2.toInt ∧ b.2.toInt ≤ hi) :
    lo ≤ (onSegment x a b).toInt ∧ (onSegment x a b).toInt ≤ hi := by
  have hd : 0 < b.1.toInt - a.1.toInt := by omega
  have hra := fx_range a.2
  have hrb := fx_range b.2
  unfold onSegment
  rw [toInt_sat32, floorDiv_of_pos hd]
  have hu : 0 ≤ x.toInt - a.1.toInt := by omega
  have huv : x.toInt - a.1.toInt ≤ b.1.toInt - a.1.toInt := by omega
  rcases Int.le_total a.2.toInt b.2.toInt with hab | hab
  · have hn : 0 ≤ b.2.toInt - a.2.toInt := by omega
    have q0 := Int.ediv_nonneg (Int.mul_nonneg hn hu) (Int.le_of_lt hd)
    have q1 : (b.2.toInt - a.2.toInt) * (x.toInt - a.1.toInt) / (b.1.toInt - a.1.toInt)
        ≤ b.2.toInt - a.2.toInt :=
      Int.ediv_le_of_le_mul hd (Int.mul_le_mul_of_nonneg_left huv hn)
    omega
  · have hn : b.2.toInt - a.2.toInt ≤ 0 := by omega
    have q0 : b.2.toInt - a.2.toInt
        ≤ (b.2.toInt - a.2.toInt) * (x.toInt - a.1.toInt) / (b.1.toInt - a.1.toInt) := by
      apply Int.le_ediv_of_mul_le hd
      exact Int.mul_le_mul_of_nonpos_left hn huv
    have q1 : (b.2.toInt - a.2.toInt) * (x.toInt - a.1.toInt) / (b.1.toInt - a.1.toInt) ≤ 0 := by
      apply Int.ediv_le_of_le_mul hd
      have := Int.mul_nonpos_of_nonpos_of_nonneg hn hu
      omega
    omega

/-- The search answers within any bounds on the values it can meet. -/
theorem interpFrom_range {x : Fx} {lo hi : Int} (rest : List Point) :
    ∀ a : Point, a.1.toInt ≤ x.toInt → (∀ p ∈ a :: rest, lo ≤ p.2.toInt ∧ p.2.toInt ≤ hi) →
      lo ≤ (interpFrom x a rest).toInt ∧ (interpFrom x a rest).toInt ≤ hi := by
  induction rest with
  | nil => intro a _ h; exact h a (List.mem_singleton.2 rfl)
  | cons b rest ih =>
    intro a ha h
    unfold interpFrom
    split
    · exact onSegment_range ha ‹_› (h a (by simp)) (h b (by simp))
    · exact ih b (by omega) fun p hp => h p (List.mem_cons_of_mem _ hp)

/-- `interpolate` on a table with points: below the first, above the last, or the search (40 R120). -/
theorem interpolate_cons (x : Fx) (a : Point) (rest : List Point) :
    interpolate x (a :: rest) =
      if x.toInt ≤ a.1.toInt then a.2
      else if ((a :: rest).getLast (List.cons_ne_nil a rest)).1.toInt ≤ x.toInt then
        ((a :: rest).getLast (List.cons_ne_nil a rest)).2
      else interpFrom x a rest := rfl

/-- A lookup answers within any bounds on the values of its table (40 R121 item 3). -/
theorem interpolate_range {x : Fx} {t : List Point} {lo hi : Int} (hne : t ≠ [])
    (h : ∀ p ∈ t, lo ≤ p.2.toInt ∧ p.2.toInt ≤ hi) :
    lo ≤ (interpolate x t).toInt ∧ (interpolate x t).toInt ≤ hi := by
  cases t with
  | nil => exact absurd rfl hne
  | cons a rest =>
    rw [interpolate_cons]
    split
    · exact h a (by simp)
    · split
      · exact h _ (List.getLast_mem _)
      · exact interpFrom_range rest a (by omega) h

/-- A one-point table answers its value for every argument (40 R121 item 5). -/
@[simp] theorem interpolate_singleton (x : Fx) (p : Point) : interpolate x [p] = p.2 := by
  rw [interpolate_cons]
  split
  · rfl
  · split <;> rfl

/-- The anchors of stage 6 are clamped, so the speed target lies in [0, 100.0] whatever the curve (41 R153). -/
theorem quad_points_range {p a : Vector Fx 4} {q : Point}
    (h : q ∈ p.toList.zip (a.toList.map fun x => fxclamp x 0#32 fxHundred)) :
    0 ≤ q.2.toInt ∧ q.2.toInt ≤ 6553600 := by
  have hm := List.of_mem_zip (a := q.1) (b := q.2) h
  obtain ⟨x, -, hx⟩ := List.mem_map.1 hm.2
  rw [← hx, toInt_fxclamp]
  simpa using clamp_mem (x := x.toInt) (lo := 0) (hi := 6553600) (by decide)

end Sys2Proof.Machine
end

