-- ==== Sys2Proof/Laws/Ops.lean ====
section
/-! SUPPORT. What each shared operation, `exec` and `step` can do, said once. -/

namespace Sys2Proof.Machine

/-- A command on a valid instance has its effect and completes (60 R221). -/
theorem runCommand_of_valid {s : State} (f : State → State) (h : calValid s.cal = true) :
    runCommand f s = .next (complete (f (startBatch s))) := by
  rw [runCommand, (cfgFault_eq_false s).2 h]; rfl

/-- A command under a configuration fault raises `ERR_CONFIG` (60 R222). -/
theorem runCommand_of_fault {s : State} (f : State → State) (h : calValid s.cal = false) :
    runCommand f s = .next (raise .errConfig s) := by
  rw [runCommand, (cfgFault_eq_true s).2 h]; rfl

/-- A decode error on a valid instance (60 R224). -/
theorem reject_of_valid {s : State} (e : StatusCode) (h : calValid s.cal = true) : reject e s = raise e s := by
  rw [reject, (cfgFault_eq_false s).2 h]; rfl

/-- A decode error under a configuration fault is an `ERR_CONFIG` (60 R227). -/
theorem reject_of_fault {s : State} (e : StatusCode) (h : calValid s.cal = false) :
    reject e s = raise .errConfig s := by
  rw [reject, (cfgFault_eq_true s).2 h]; rfl

/-- `ENC.STATE k` of a configured message (42 R187). -/
theorem execEncState_of_configured {k : Nat} {s : State} {m : StateMsg} (h : s.cal.msg.state[k]? = some m) :
    execEncState k s = runCommand (sendState k m) s := by rw [execEncState, h]

/-- `ENC.STATE k` of a message that is not configured (60 R225). -/
theorem execEncState_of_unknown {k : Nat} {s : State} (h : s.cal.msg.state[k]? = none) :
    execEncState k s = .next (reject .errEncode s) := by rw [execEncState, h]

/-- What a command can do on a valid instance: its own effect and completion, or `ERR_ENCODE`. -/
theorem exec_cases {i : Instr} {s t : State} (hv : calValid s.cal = true) (h : exec i s = .next t) :
    (i = .step ∧ t = complete (runStep (startBatch s))) ∨
    (i = .encSteer ∧ t = complete (sendSteer (startBatch s))) ∨
    (i = .encLong ∧ t = complete (sendLong (startBatch s))) ∨
    (i = .encBrake ∧ t = complete (sendBrake (startBatch s))) ∨
    (i = .encPark ∧ t = complete (sendPark (startBatch s))) ∨
    (∃ k m, i = .encState k ∧ s.cal.msg.state[k]? = some m ∧ t = complete (sendState k m (startBatch s))) ∨
    (∃ k, i = .encState k ∧ s.cal.msg.state[k]? = none ∧ t = raise .errEncode s) ∨
    (i = .tick ∧ t = complete (runTick (startBatch s))) := by
  cases i with
  | encState k =>
    cases hk : s.cal.msg.state[k]? with
    | none =>
      simp only [exec, execEncState_of_unknown hk, reject_of_valid _ hv, Host.Outcome.next.injEq] at h
      simpa [hk, h] using List.getElem?_eq_none_iff.1 hk
    | some m =>
      simp only [exec, execEncState_of_configured hk, runCommand_of_valid _ hv, Host.Outcome.next.injEq] at h
      simp [hk, h]
  | _ =>
    simp only [exec, execStep, execEncSteer, execEncLong, execEncBrake, execEncPark, execTick,
      runCommand_of_valid _ hv, Host.Outcome.next.injEq] at h
    simp [h]

/-- What a command can do under a configuration fault: raise `ERR_CONFIG` (60 R222). -/
theorem exec_of_fault (i : Instr) {s : State} (hv : calValid s.cal = false) :
    exec i s = .next (raise .errConfig s) := by
  cases i with
  | encState k =>
    cases hk : s.cal.msg.state[k]? with
    | none => rw [exec, execEncState_of_unknown hk, reject_of_fault _ hv]
    | some m => rw [exec, execEncState_of_configured hk, runCommand_of_fault _ hv]
  | _ => exact runCommand_of_fault _ hv

/-- What a step can do: nothing, a change of the operand ports, a reset, a command, or a decode error. -/
theorem step_cases {s t : State} (h : step s = .next t) :
    (s.pending = [] ∧ t = s) ∨
    (∃ o rest, s.pending = .operands o :: rest ∧ t = drivePorts o { s with pending := rest }) ∨
    (∃ rest, s.pending = .reset :: rest ∧ t = resetBlock { s with pending := rest }) ∨
    (∃ w rest i, s.pending = .command w :: rest ∧ decode w = .command i ∧
      exec i { s with pending := rest } = .next t) ∨
    (∃ w rest, s.pending = .command w :: rest ∧ decode w = .unknownMessage ∧
      t = reject .errEncode { s with pending := rest }) ∨
    (∃ w rest, s.pending = .command w :: rest ∧ decode w = .reservedWord ∧
      t = reject .errCmd { s with pending := rest }) := by
  unfold step at h
  split at h
  · simp_all
  · simp_all
  · simp_all
  · rename_i w rest hp
    split at h <;> simp_all

/-! ### The gated encodes of a `TICK` write counters and the batch only -/

/-- A gated encode runs or does nothing (43 R212). -/
theorem gated_cases (h : MsgHeader) (f : State → State) (s : State) :
    (sendGate s.out.frame h.div = true ∧ gated h f s = f s) ∨
      (sendGate s.out.frame h.div = false ∧ gated h f s = s) := by
  unfold gated; cases sendGate s.out.frame h.div <;> simp

/-- The part of the state that no encode writes (42 R180). -/
def withoutSends (s : State) : ActuatorState × Status × Results × Telemetry × Calibration × Operands × List HostItem :=
  (s.act, s.status, s.out, s.tel, s.cal, s.inp, s.pending)

@[simp] theorem withoutSends_encodeMessage (m : MsgIndex) (h : MsgHeader) (l : List Slot) (s : State) :
    withoutSends (encodeMessage m h l s) = withoutSends s := rfl

theorem withoutSends_gated {h : MsgHeader} {f : State → State} {s : State}
    (hf : withoutSends (f s) = withoutSends s) : withoutSends (gated h f s) = withoutSends s := by
  rcases gated_cases h f s with ⟨-, e⟩ | ⟨-, e⟩ <;> rw [e]
  exact hf

@[simp] theorem withoutSends_sendStatesFrom (l : List StateMsg) :
    ∀ (k : Nat) (s : State), withoutSends (sendStatesFrom k l s) = withoutSends s := by
  induction l with
  | nil => intro k s; rfl
  | cons m rest ih => intro k s; rw [sendStatesFrom, ih]; exact withoutSends_gated rfl

/-- The encodes of a `TICK` leave everything but the counters and the batch (43 R210). -/
@[simp] theorem withoutSends_sendAll (s : State) : withoutSends (sendAll s) = withoutSends s := by
  rw [sendAll, withoutSends_sendStatesFrom, withoutSends_gated rfl, withoutSends_gated rfl, withoutSends_gated rfl,
    withoutSends_gated rfl]

theorem withoutSends_eq {s t : State} (h : withoutSends s = withoutSends t) :
    s.act = t.act ∧ s.status = t.status ∧ s.out = t.out ∧ s.tel = t.tel ∧ s.cal = t.cal ∧ s.inp = t.inp ∧
      s.pending = t.pending := by
  simpa [withoutSends] using h

/-- A `TICK` writes `S.*` as its `STEP` does. -/
theorem runTick_act (s : State) : (runTick s).act = (runStep s).act :=
  (withoutSends_eq (withoutSends_sendAll (runStep s))).1

/-- A `TICK` writes `OUT.*` as its `STEP` does. -/
theorem runTick_out (s : State) : (runTick s).out = (runStep s).out :=
  (withoutSends_eq (withoutSends_sendAll (runStep s))).2.2.1

/-- A `TICK` writes `TEL.*` as its `STEP` does. -/
theorem runTick_tel (s : State) : (runTick s).tel = (runStep s).tel :=
  (withoutSends_eq (withoutSends_sendAll (runStep s))).2.2.2.1

/-- No command changes the parameters of its instance (70 R251). -/
theorem exec_cal {i : Instr} {s t : State} (h : exec i s = .next t) : t.cal = s.cal := by
  cases hv : calValid s.cal with
  | false =>
    rw [exec_of_fault i hv, Host.Outcome.next.injEq] at h
    rw [← h]; rfl
  | true =>
    rcases exec_cases hv h with ⟨-, e⟩ | ⟨-, e⟩ | ⟨-, e⟩ | ⟨-, e⟩ | ⟨-, e⟩ | ⟨k, m, -, -, e⟩ | ⟨k, -, -, e⟩ | ⟨-, e⟩ <;>
      rw [e]
    all_goals first | rfl | skip
    exact (withoutSends_eq (withoutSends_sendAll (runStep (startBatch s)))).2.2.2.2.1

end Sys2Proof.Machine
end

