-- ==== Sys2Proof/Laws/Payload.lean ====
section
/-! SUPPORT. What the payload operations do, bit by bit and as numbers (20 R64 to R66). -/

namespace Sys2Proof.Machine

/-- Bit `i` of a field mask. -/
theorem getLsbD_fieldMask (w i : Nat) : (fieldMask w).getLsbD i = (decide (i < 64) && decide (i < w)) := by
  simp [fieldMask, BitVec.getLsbD_ofNat, Nat.testBit_two_pow_sub_one]

/-- Bit `i` of the payload image of a field value. -/
theorem getLsbD_ofInt_emod (q : Int) (w i : Nat) :
    (BitVec.ofInt 64 (q.emod (2 ^ w))).getLsbD i =
      (decide (i < 64) && (q.emod (2 ^ w)).toNat.testBit i) := by
  have h : 0 ≤ q.emod (2 ^ w) := Int.emod_nonneg _ (Int.ne_of_gt (Int.pow_pos (by decide)))
  obtain ⟨n, hn⟩ := Int.eq_ofNat_of_zero_le h
  rw [hn, BitVec.ofInt_natCast, BitVec.getLsbD_ofNat]
  rfl

/-- The value of a field is below `2^w`, so it has no bit from `w` on. -/
theorem testBit_emod_of_ge (q : Int) {w i : Nat} (h : w ≤ i) : (q.emod (2 ^ w)).toNat.testBit i = false := by
  apply Nat.testBit_lt_two_pow
  have hpos : (0 : Int) < 2 ^ w := Int.pow_pos (by decide)
  have h1 := Int.emod_lt_of_pos q hpos
  have h0 := Int.emod_nonneg q (Int.ne_of_gt hpos)
  have h2 : (q.emod (2 ^ w)).toNat < 2 ^ w := by
    have : ((2 ^ w : Nat) : Int) = 2 ^ w := by push_cast; rfl
    change 0 ≤ q.emod (2 ^ w) at h0
    change q.emod (2 ^ w) < 2 ^ w at h1
    omega
  exact Nat.lt_of_lt_of_le h2 (Nat.pow_le_pow_right (by decide) h)

/-- `PayloadInsert`, bit by bit (20 R65): inside the field the bits of the two's complement value, outside it the bits
that were there. -/
theorem getLsbD_payloadInsert (p : Payload) (off w : Nat) (q : Int) (i : Nat) :
    (payloadInsert p off w q).getLsbD i =
      if off ≤ i ∧ i < off + w then (decide (i < 64) && (q.emod (2 ^ w)).toNat.testBit (i - off))
      else p.getLsbD i := by
  unfold payloadInsert
  simp only [BitVec.getLsbD_or, BitVec.getLsbD_and, BitVec.getLsbD_not, BitVec.getLsbD_shiftLeft,
    getLsbD_fieldMask, getLsbD_ofInt_emod]
  by_cases h64 : i < 64
  · by_cases h1 : off ≤ i
    · by_cases h2 : i < off + w
      · have h3 : i - off < w := by omega
        have h4 : i - off < 64 := by omega
        simp [h64, h1, h2, h3, h4, Nat.not_lt.2 h1]
      · have h3 : ¬ i - off < w := by omega
        simp [h64, h1, h2, h3, Nat.not_lt.2 h1, testBit_emod_of_ge q (Nat.le_of_not_lt h3)]
    · have h2 : i < off := by omega
      simp [h64, h1, h2]
  · have hp : p.getLsbD i = false := BitVec.getLsbD_of_ge p i (by omega)
    simp [h64, hp]

@[simp] theorem payloadBytes_length (p : Payload) (n : Nat) : (payloadBytes p n).length = n := by
  simp [payloadBytes]

@[simp] theorem payloadBytes_zero (p : Payload) : payloadBytes p 0 = [] := rfl

/-- The bytes of a payload, one more of them. -/
theorem payloadBytes_succ (p : Payload) (n : Nat) :
    payloadBytes p (n + 1) = payloadBytes p n ++ [payloadByte p n] := by
  simp [payloadBytes, List.range_succ]

/-- A payload number, its last byte apart. -/
theorem payloadNumber_append (l : List Byte) (b : Byte) :
    payloadNumber (l ++ [b]) = payloadNumber l + 256 ^ l.length * b.toNat := by
  induction l with
  | nil => simp [payloadNumber]
  | cons a l ih => simp only [List.cons_append, payloadNumber, ih, List.length_cons, Nat.pow_succ]; ring

/-- The bytes of a payload make up its number (20 R64, R66). -/
theorem payloadNumber_payloadBytes (p : Payload) (n : Nat) :
    payloadNumber (payloadBytes p n) = p.toNat % 2 ^ (8 * n) := by
  induction n with
  | zero => simp [payloadNumber, Nat.mod_one]
  | succ n ih =>
    have h8 : (2 : Nat) ^ (8 * (n + 1)) = 2 ^ (8 * n) * 256 := by rw [Nat.mul_succ, Nat.pow_add]
    have h256 : (256 : Nat) ^ n = 2 ^ (8 * n) := by rw [Nat.pow_mul]
    rw [payloadBytes_succ, payloadNumber_append, ih, payloadBytes_length, h8, h256, Nat.mod_mul]
    congr 2
    simp [payloadByte, BitVec.extractLsb'_toNat, Nat.shiftRight_eq_div_pow]

/-- The exclusive-or of a list of bytes moves out of the fold. -/
theorem foldl_xor (l : List Byte) (a : Byte) : l.foldl (· ^^^ ·) a = a ^^^ l.foldl (· ^^^ ·) 0#8 := by
  induction l generalizing a with
  | nil => simp
  | cons b l ih => rw [List.foldl_cons, ih, List.foldl_cons, ih (0#8 ^^^ b)]; simp [BitVec.xor_assoc]

/-- The checksum over one more byte. -/
theorem xorChecksum_append (l : List Byte) (b : Byte) : xorChecksum (l ++ [b]) = xorChecksum l ^^^ b := by
  unfold xorChecksum
  rw [List.foldl_append, List.foldl_cons, List.foldl_nil, BitVec.xor_assoc, BitVec.xor_comm b, BitVec.xor_assoc]

/-- A slot that is not present leaves the payload as it is (42 R182). -/
@[simp] theorem insertSlot_absent (p : Payload) (k : Slot) (h : k.1.present = false) : insertSlot p k = p := by
  simp [insertSlot, h]

end Sys2Proof.Machine
end

