-- ==== Sys2Proof/Laws/PerInstr.lean ====
section
/-! SUPPORT. The statements made of every command one by one. -/

namespace Sys2Proof.Laws.MatchMask

/-- The command word of a command lies in the command's own row of the command map: under the row's mask it is the
row's match (30 R81). -/
def Statement (i : Instr) : Prop := i.WellFormed → encode i &&& (opcodeRow i).2 = (opcodeRow i).1

theorem step : Statement .step := fun _ => by decide

theorem encSteer : Statement .encSteer := fun _ => by decide

theorem encLong : Statement .encLong := fun _ => by decide

theorem encBrake : Statement .encBrake := fun _ => by decide

theorem encPark : Statement .encPark := fun _ => by decide

theorem encState (s : Nat) : Statement (.encState s) := fun _ => by
  have key : ∀ b : BitVec 4, (0x4#4 ++ b) &&& 0xF0#8 = 0x40#8 := by decide
  exact key _

theorem tick : Statement .tick := fun _ => by decide

end Sys2Proof.Laws.MatchMask
end

