-- ==== Sys2Proof/Laws/SpeedCurve.lean ====
section
/-! SUPPORT. The plain-data form of `SpeedCurve` loses nothing (41 R153, log entry 4): a valid tree has non-decreasing
breakpoints for every argument, and every total function of `(w, v)` with non-decreasing breakpoints is a valid tree. -/

namespace Sys2Proof.Machine

/-- The breakpoints of a valid curve are non-decreasing for every argument (00 R6). -/
theorem speedCurveAt_sorted {t : SpeedCurve} (h : speedCurveValid t = true) (w v : Fx) :
    QuadSorted (speedCurveAt w v t).1 := by
  induction t with
  | leaf p a => simpa [speedCurveValid, speedCurveAt] using h
  | onSpeed c t1 t2 ih1 ih2 =>
    simp only [speedCurveValid, Bool.and_eq_true] at h
    unfold speedCurveAt
    split
    · exact ih1 h.1
    · exact ih2 h.2
  | onWind c t1 t2 ih1 ih2 =>
    simp only [speedCurveValid, Bool.and_eq_true] at h
    unfold speedCurveAt
    split
    · exact ih1 h.1
    · exact ih2 h.2

theorem speedCurveAt_onSpeed (w v c : Fx) (t1 t2 : SpeedCurve) :
    speedCurveAt w v (.onSpeed c t1 t2) =
      if v.toInt < c.toInt then speedCurveAt w v t1 else speedCurveAt w v t2 := rfl

theorem speedCurveAt_onWind (w v c : Fx) (t1 t2 : SpeedCurve) :
    speedCurveAt w v (.onWind c t1 t2) =
      if w.toInt < c.toInt then speedCurveAt w v t1 else speedCurveAt w v t2 := rfl

/-- A curve chosen by the speed is a curve, on the `n` lowest speeds. -/
theorem exists_curve_onSpeed (g : Fx → SpeedCurve) (hg : ∀ v, speedCurveValid (g v) = true) (n : Nat)
    (hn : n ≤ 2 ^ 32) :
    ∃ t, speedCurveValid t = true ∧
      ∀ w v : Fx, v.toInt < fxMin + n → speedCurveAt w v t = speedCurveAt w v (g v) := by
  induction n with
  | zero => exact ⟨g 0#32, hg _, fun w v h => absurd (fx_range v).1 (by omega)⟩
  | succ n ih =>
    obtain ⟨t, ht, hev⟩ := ih (by omega)
    have hu : (BitVec.ofInt 32 (fxMin + n)).toInt = fxMin + n :=
      toInt_ofInt_of_range (by omega) (by simp only [fxMin, fxMax]; omega)
    refine ⟨.onSpeed (BitVec.ofInt 32 (fxMin + n)) t (g (BitVec.ofInt 32 (fxMin + n))), ?_, fun w v hv => ?_⟩
    · simp [speedCurveValid, ht, hg]
    · rw [speedCurveAt_onSpeed]
      split
      · exact hev w v (by omega)
      · have : v = BitVec.ofInt 32 (fxMin + n) := fx_ext (by omega)
        rw [← this]

/-- A curve chosen by the wind offset is a curve, on the `n` lowest offsets. -/
theorem exists_curve_onWind (g : Fx → SpeedCurve) (hg : ∀ w, speedCurveValid (g w) = true) (n : Nat)
    (hn : n ≤ 2 ^ 32) :
    ∃ t, speedCurveValid t = true ∧
      ∀ w v : Fx, w.toInt < fxMin + n → speedCurveAt w v t = speedCurveAt w v (g w) := by
  induction n with
  | zero => exact ⟨g 0#32, hg _, fun w v h => absurd (fx_range w).1 (by omega)⟩
  | succ n ih =>
    obtain ⟨t, ht, hev⟩ := ih (by omega)
    have hu : (BitVec.ofInt 32 (fxMin + n)).toInt = fxMin + n :=
      toInt_ofInt_of_range (by omega) (by simp only [fxMin, fxMax]; omega)
    refine ⟨.onWind (BitVec.ofInt 32 (fxMin + n)) t (g (BitVec.ofInt 32 (fxMin + n))), ?_, fun w v hw => ?_⟩
    · simp [speedCurveValid, ht, hg]
    · rw [speedCurveAt_onWind]
      split
      · exact hev w v (by omega)
      · have : w = BitVec.ofInt 32 (fxMin + n) := fx_ext (by omega)
        rw [← this]

/-- Every value of fx is below this bound. -/
theorem fx_lt_bound (x : Fx) : x.toInt < fxMin + (2 ^ 32 : Nat) := by
  have := (fx_range x).2
  simp only [fxMin, fxMax] at *
  omega

/-- Every total function of `(w, v)` with non-decreasing breakpoints is the function of a valid curve. -/
theorem speedCurve_complete (f : Fx → Fx → Vector Fx 4 × Vector Fx 4) (hf : ∀ w v, QuadSorted (f w v).1) :
    ∃ t, speedCurveValid t = true ∧ ∀ w v, speedCurveAt w v t = f w v := by
  have leafAt : ∀ w v, ∃ t, speedCurveValid t = true ∧ ∀ w' v', speedCurveAt w' v' t = f w v := by
    intro w v
    refine ⟨.leaf (f w v).1 ((f w v).2.map .const), ?_, fun w' v' => ?_⟩
    · simpa [speedCurveValid] using hf w v
    · have : (f w v).2.map (anchorValue v' ∘ Anchor.const) = (f w v).2 := by
        have hid : (anchorValue v' ∘ Anchor.const) = id := rfl
        rw [hid, Vector.map_id]
      simp [speedCurveAt, this]
  choose leafOf hleaf hleafAt using leafAt
  have onW : ∀ v, ∃ t, speedCurveValid t = true ∧ ∀ w v', speedCurveAt w v' t = f w v := by
    intro v
    obtain ⟨t, ht, hev⟩ := exists_curve_onWind (fun w => leafOf w v) (fun w => hleaf w v) (2 ^ 32) (by omega)
    exact ⟨t, ht, fun w v' => (hev w v' (fx_lt_bound w)).trans (hleafAt w v w v')⟩
  choose windOf hwind hwindAt using onW
  obtain ⟨t, ht, hev⟩ := exists_curve_onSpeed windOf hwind (2 ^ 32) (by omega)
  exact ⟨t, ht, fun w v => (hev w v (fx_lt_bound v)).trans (hwindAt v w v)⟩

end Sys2Proof.Machine
end

