-- ==== Sys2Proof/Tests/Slice0.lean ====
section
/-! SUPPORT. The model's own tests: well-formedness, words written out bit by bit, vectors of 95 (each named), and for
every statement with hypotheses a state and operands that meet them. -/

namespace Sys2Proof.Tests

open Sys2Proof.Machine

/-! ### Helpers -/

/-- A property of the next state an outcome answers. -/
def after (o : Host.Outcome State Fault Refusal) (p : State → Bool) : Bool :=
  match o with
  | .next t => p t
  | .fault _ => false
  | .refused _ => false

/-- An fx value from its raw integer. -/
def raw (z : Int) : Fx := BitVec.ofInt 32 z

/-- The operands of program P1 (95 section 10). -/
def opsP1 : Operands :=
  { Operands.zero with
    accelReq := raw 131072, torqueReq := fxOne, longActive := true, latActive := true, gear := .drive,
    steerMode := 1#8, longMode := 1#8, brakeMode := true,
    stateVal := [#v[raw 458752, raw (-163840), 0#32, 0#32, 0#32, 0#32, 0#32, 0#32]] }

/-- Program P1 before its first tick. -/
def stateP1 : State := { State.reset with inp := opsP1 }

/-- The test instance after reset with these operands on its ports. -/
def withOps (o : Operands) : State := { State.reset with inp := o }

/-- The test instance after reset with this command word presented. -/
def withWord (w : Byte) : State := { State.reset with pending := [.command w] }

/-- The operands of a brake demand of `b` (a raw fraction) at 16.0 m/s, where the creep term is 0. -/
def braking (b : Int) : Operands :=
  { Operands.zero with accelReq := raw (-4 * b), longActive := true, speed := raw 1048576, gear := .drive }

/-- A state with the brake latched, as in row 4 of program P2 (95 section 10), its next tick a protection tick. -/
def latched : State :=
  { State.reset with
    act := { ActuatorState.zero with frame := 4#4, braking := true, brakeSteady := raw 15360, brakeLast := raw 15360 }
    out := { Results.zero with brakeFrac := raw 15360 }
    tel := { Telemetry.zero with brake := raw 15360 }
    inp := braking 16384
    pending := [.command 0x10#8] }

/-- An instance whose configuration is invalid: `TQ_BP[0] = 0.5` (95 section 7). -/
def calBad : Calibration := { calT with tq := ⟨[raw 32768], [0#32]⟩ }

/-- The other reading of the brake scale, and no hysteresis gap. -/
def calClip : Calibration := { calT with brakeScaleMode := .toMaxThenClip, hystGap := 0#32 }

/-- The instance of 95 section 5 that steers by angle. -/
def calAngle : Calibration := { calT with steerValueSrc := .angle }

/-- The instance on which the torque code is not odd (log entry 9): the table value at 2 raw units is 65535 raw. -/
def calOdd : Calibration := { calT with tq := ⟨[0#32, raw 2], [0#32, raw 65535]⟩ }

theorem calT_valid : calValid calT = true := by decide

theorem calBad_invalid : calValid calBad = false := by decide

theorem calClip_valid : calValid calClip = true := by decide

theorem calAngle_valid : calValid calAngle = true := by decide

theorem calOdd_valid : calValid calOdd = true := by decide

/-! ### Well-formedness -/

theorem test_wf_smallest_frame_number : (Instr.encState 0).wf = true := by decide

theorem test_wf_largest_frame_number : (Instr.encState 15).wf = true := by decide

theorem test_wf_refuses_frame_number_16 : (Instr.encState 16).wf = false := by decide

theorem test_wf_commands_without_argument :
    [Instr.step, .encSteer, .encLong, .encBrake, .encPark, .tick].all Instr.wf = true := by decide

/-! ### Words written out from 30 R80 and R81: `op` in bits 7:4, `arg` in bits 3:0 -/

theorem test_decode_step : decode 0b00010000#8 = .command .step := by decide

theorem test_decode_encSteer : decode 0b00100000#8 = .command .encSteer := by decide

theorem test_decode_encLong : decode 0b00100001#8 = .command .encLong := by decide

theorem test_decode_encBrake : decode 0b00100010#8 = .command .encBrake := by decide

theorem test_decode_encPark : decode 0b00100011#8 = .command .encPark := by decide

theorem test_decode_encState_0 : decode 0b01000000#8 = .command (.encState 0) := by decide

theorem test_decode_encState_11 : decode 0b01001011#8 = .command (.encState 11) := by decide

theorem test_decode_tick : decode 0b00110000#8 = .command .tick := by decide

theorem test_decode_unknown_message : decode 0b00100100#8 = .unknownMessage := by decide

theorem test_decode_reserved : decode 0b00010001#8 = .reservedWord := by decide

theorem test_decodeTableWord : decodeTableWord 8 0x22 = some .encBrake ∧ decodeTableWord 8 0x32 = none := by decide

/-- 95 section 7: 7 words execute, 27 raise `ERR_ENCODE`, 222 raise `ERR_CMD`. -/
theorem test_word_classes :
    ((List.range 256).map fun w => wordClass 1 (BitVec.ofNat 8 w)).count .executes = 7 ∧
    ((List.range 256).map fun w => wordClass 1 (BitVec.ofNat 8 w)).count .errEncode = 27 ∧
    ((List.range 256).map fun w => wordClass 1 (BitVec.ofNat 8 w)).count .errCmd = 222 := by decide +kernel

/-! ### One command each (95 sections 4 to 7 and program P1) -/

/-- Program P1, tick 0. -/
theorem test_step_launch :
    after (exec .step stateP1) (fun t => t.out.torqueCode.toInt == -125 && t.out.accelCode == 133#16 &&
      t.out.speedTarget.toInt == 229376 && t.tel.gas.toInt == 16384 && t.act.frame == 1#4) = true := by
  decide +kernel

/-- Program P2, row 4 (95 section 10). -/
theorem test_step_brake :
    after (exec .step { latched with inp := { latched.inp with now := 1040#32 } })
      (fun t => t.act.applyBrakeLast == 43#16 && t.act.lastPumpTimestamp == 1040#32 && t.act.pumpOn) = true := by
  decide +kernel

/-- 95 section 5, third row of `ENC.STEER`. -/
theorem test_encSteer_torque :
    after (exec .encSteer { stateP1 with out := { Results.zero with torqueCode := raw (-125) } })
      (fun t => t.batch.map (·.payload) == [[0x03#8, 0x83#8, 0xFF#8, 0#8, 0#8, 0#8, 0#8, 0x80#8]]) = true := by decide

/-- 95 section 5, second row with `STEER_VALUE_SRC = ANGLE`: left-positive becomes right-positive, the tie rounds away
from zero. -/
theorem test_encSteer_angle :
    after (exec .encSteer { withOps { Operands.zero with latActive := true, angleCmd := raw (-32768) } with
        cal := calAngle })
      (fun t => t.batch.map (·.payload) == [[0x01#8, 0x01#8, 0#8, 0#8, 0#8, 0#8, 0#8, 0xFF#8]]) = true := by decide

/-- 95 section 5, fourth row of `ENC.LONG`. -/
theorem test_encLong_saturates :
    after (exec .encLong { withOps { Operands.zero with longActive := true } with
        out := { Results.zero with gearCode := 20#8, accelCode := 300#16 } })
      (fun t => t.batch.map (·.payload) == [[0xF1#8, 0#8, 0#8, 0x78#8, 0xFF#8, 0#8, 0#8, 0x89#8]]) = true := by decide

/-- 95 section 5, first row of `ENC.BRAKE`. -/
theorem test_encBrake_percentage :
    after (exec .encBrake { withOps { Operands.zero with longActive := true } with
        out := { Results.zero with brakeFrac := raw 20480, pumpOn := true } })
      (fun t => t.batch.map (·.payload) == [[0x05#8, 0x1F#8, 0#8, 0#8, 0#8, 0#8, 0#8, 0xE5#8]]) = true := by decide

/-- 95 section 5, second row of `ENC.BRAKE`, without the counter. -/
theorem test_encBrake_code :
    after (exec .encBrake { withOps { Operands.zero with longActive := true, brakeMode := true } with
        out := { Results.zero with brakeCode := 79#16, pumpOn := true } })
      (fun t => t.batch.map (·.payload.take 2) == [[0x07#8, 0x4F#8]]) = true := by decide

/-- 95 section 5, second row of `ENC.PARK`: the counter before the increment, then 8. -/
theorem test_encPark_counter :
    after (exec .encPark { withOps { Operands.zero with parkEnable := true } with
        rc := Vector.replicate 16 7#4 })
      (fun t => t.batch.map (·.payload) == [[0x02#8, 0#8, 0#8, 0#8, 0#8, 0#8, 0x70#8, 0x8D#8]] &&
        t.rc[3] == 8#4 && t.rc[2] == 7#4) = true := by decide

/-- 95 section 5, first row of `ENC.STATE 0`: a frame without counter and checksum. -/
theorem test_encState_configured :
    after (exec (.encState 0) stateP1)
      (fun t => t.batch.map (·.payload) == [[0x07#8, 0xF6#8, 0x0F#8, 0#8]] && t.rc[4] == 0#4) = true := by decide

/-- 95 section 7, word `0x4F`. -/
theorem test_encState_unconfigured :
    after (step (withWord 0x4F#8)) (fun t => t.statusWord == 0x0A#8 && t.batch == []) = true := by decide

/-- Program P1, tick 0: five messages in order. -/
theorem test_tick_batch :
    after (exec .tick stateP1) (fun t => t.batch.map (·.id) == [0x101#32, 0x102#32, 0x103#32, 0x104#32, 0x105#32])
      = true := by decide

/-- 95 section 6, a tick of odd index sends messages 0 and 1 only. -/
theorem test_tick_odd :
    after (exec .tick { stateP1 with act := { ActuatorState.zero with frame := 15#4 } })
      (fun t => t.batch.map (·.id) == [0x101#32, 0x102#32] && t.act.frame == 0#4 && t.out.frame == 15#4) = true := by
  decide

/-- 95 section 7, words `0x27` and `0x11`, and any word under a configuration fault. -/
theorem test_errors :
    (after (step (withWord 0x27#8)) (fun t => t.statusWord == 0x0A#8) &&
      after (step (withWord 0x11#8)) (fun t => t.statusWord == 0x13#8) &&
      after (step { withWord 0x27#8 with cal := calBad }) (fun t => t.statusWord == 0x05#8)) = true := by decide

/-- 95 section 7: a word of each class (the words of a class's boundary among them) leaves its own code. -/
theorem test_status_codes :
    [0x10#8, 0x40#8].all (fun w => after (step (withWord w)) (fun t => t.status.code == .ok)) = true ∧
    [0x24#8, 0x41#8].all (fun w => after (step (withWord w)) (fun t => t.status.code == .errEncode)) = true ∧
    [0x00#8, 0x50#8].all (fun w => after (step (withWord w)) (fun t => t.status.code == .errCmd)) = true ∧
    [0x10#8, 0x24#8, 0x00#8].all (fun w =>
      after (step { withWord w with cal := calBad }) (fun t => t.status.code == .errConfig)) = true := by decide +kernel

/-- 95 section 8: `STATUS` after reset, with and without a configuration fault. -/
theorem test_reset_status :
    State.reset.statusWord = 0x00#8 ∧ (State.resetWith calBad).statusWord = 0x04#8 := by decide

/-- `step` runs a word placed where it looks for its next command. -/
theorem test_withFetchWord :
    after (step (State.reset.withFetchWord 8 0x10)) (fun t => t.act.frame == 1#4 && t.pending == []) = true := by decide

/-! ### Primitives (95 section 3) -/

theorem test_saturation :
    (fxadd (raw 2147418112) fxOne).toInt = fxMax ∧ (fxneg (raw fxMin)).toInt = fxMax ∧
      (fxsub (raw fxMin) fxOne).toInt = fxMin := by decide

theorem test_floor_division :
    (fxdiv fxOne (raw 196608)).toInt = 21845 ∧ (fxdiv (raw (-65536)) (raw 196608)).toInt = -21846 ∧
      (fxmul (raw (-32768)) (raw 1)).toInt = -1 ∧ (muldiv 16384 131071 131072).toInt = 16383 := by decide

theorem test_rounding :
    roundNearest (raw 163840) = 3 ∧ roundNearest (raw (-163840)) = -3 ∧ roundNearest (raw 32767) = 0 ∧
      toCode (raw 65535) 255 = 254 ∧ quant 825753 1024#32 = 806 ∧ quant (-32768) fxOne = -1 := by decide

theorem test_satField :
    satField 9 3 false = 7 ∧ satField (-40000) 16 true = -32768 ∧ satField 1 1 true = 0 ∧
      satField (-5) 8 false = 0 := by decide

theorem test_interpolate :
    (interpolate (raw 1) [(0#32, raw 131072), (raw 1048576, raw 65536)]).toInt = 131071 ∧
      (interpolate (raw (-4096)) (tablePoints (mirrorTable calT.tq))).toInt = -8192000 := by decide

theorem test_rateLimit :
    (rateLimit (raw (-65536)) (raw 12288) (raw 8192) (raw 4096)).toInt = 4096 ∧
      (rateLimit (raw fxMax) (raw (fxMax - 9)) fxOne fxOne).toInt = fxMax := by decide

theorem test_payloadInsert :
    payloadInsert 0xFFFFFFFFFFFFFFFF#64 8 16 (-125) = 0xFFFFFFFFFFFF83FF#64 ∧
      payloadInsert 0#64 4 12 (-10) = 0xFF60#64 := by decide

theorem test_xorChecksum :
    xorChecksum [0x12#8, 0x34#8, 0x56#8, 0x78#8, 0x9A#8, 0xBC#8, 0xDE#8] = 0x0F#8 := by decide

/-! ### The hypotheses of the statements can be met -/

theorem witness_DecodeEncodeAgree : (Instr.encState 15).WellFormed ∧ decode 0x4F#8 = .command (.encState 15) := by
  decide

theorem witness_CommandMapDecodes : 0x40 ≤ (0x40#8).toNat ∧ (0x4F#8).toNat ≤ 0x4F := by decide

/-- The boundary words of the three classes, for two configured frames. -/
theorem witness_EveryWordHasItsClass :
    [0x10#8, 0x20#8, 0x23#8, 0x30#8, 0x40#8, 0x41#8].all (fun w => wordClass 2 w == .executes) = true ∧
    [0x24#8, 0x2F#8, 0x42#8, 0x4F#8].all (fun w => wordClass 2 w == .errEncode) = true ∧
    [0x00#8, 0x0F#8, 0x11#8, 0x1F#8, 0x31#8, 0x3F#8, 0x50#8, 0xFF#8].all (fun w => wordClass 2 w == .errCmd) = true := by
  decide

theorem witness_StepRunsDecodedCommand :
    (withWord 0x10#8).pending = .command 0x10#8 :: [] ∧ decode 0x10#8 = .command .step := by decide

/-- One state for every boundary word of the two clauses; no word is in both. -/
theorem witness_RejectedWordRaises :
    (∀ w : Byte, (withWord w).pending = .command w :: [] ∧ calValid (withWord w).cal = true) ∧
    [0x00#8, 0x0F#8, 0x11#8, 0x1F#8, 0x31#8, 0x3F#8, 0x50#8, 0xFF#8].all (fun w =>
      decide (w.toNat < 0x10 ∨ (0x11 ≤ w.toNat ∧ w.toNat ≤ 0x1F) ∨ (0x31 ≤ w.toNat ∧ w.toNat ≤ 0x3F) ∨
        0x50 ≤ w.toNat)) = true ∧
    [0x24#8, 0x2F#8, 0x41#8, 0x4F#8].all (fun w =>
      decide ((0x24 ≤ w.toNat ∧ w.toNat ≤ 0x2F) ∨
        (0x40 ≤ w.toNat ∧ w.toNat ≤ 0x4F ∧ calT.nState ≤ w.toNat - 0x40))) = true :=
  ⟨fun _ => ⟨rfl, calT_valid⟩, by decide, by decide⟩

theorem witness_UnconfiguredStateFrameRaises : calValid State.reset.cal = true ∧ State.reset.cal.nState ≤ 1 :=
  ⟨calT_valid, by decide⟩

theorem witness_ConfigFaultRefusesEveryWord :
    calValid (State.resetWith calBad).cal = false ∧
    ({ State.resetWith calBad with pending := [.command 0x10#8] } : State).pending = .command 0x10#8 :: [] ∧
    ∃ t, step (State.resetWith calBad) = .next t :=
  ⟨calBad_invalid, rfl, _, rfl⟩

/-- `step` runs a `STEP` from a state with the brake latched. -/
theorem latched_steps : step latched = .next (complete (runStep (startBatch { latched with pending := [] }))) :=
  runCommand_of_valid (s := { latched with pending := [] }) runStep calT_valid

theorem witness_ParametersNeverChange : ∃ t, step latched = .next t := ⟨_, latched_steps⟩

/-- One state for each kind of host action; the words of the four results are those of `test_status_codes`. -/
theorem witness_StatusRegisterFollowsItsTable :
    (∃ t, latched.pending = .command 0x10#8 :: [] ∧ step latched = .next t) ∧
    (∃ s t, s.pending = [.operands opsP1] ∧ step s = .next t) ∧ ∃ s t, s.pending = [.reset] ∧ step s = .next t :=
  ⟨⟨_, rfl, latched_steps⟩, ⟨State.reset.withTrace [.operands opsP1], _, rfl, rfl⟩,
    ⟨State.reset.withTrace [.reset], _, rfl, rfl⟩⟩

theorem witness_ResetValues :
    State.reset = State.resetWith calT ∧
    ∃ s t, s.cal = calT ∧ s.pending = HostItem.reset :: [] ∧ step s = .next t :=
  ⟨rfl, latched.withTrace [] |> fun s => { s with pending := [.reset] }, _, rfl, rfl, rfl⟩

theorem witness_InvariantKeptByEveryStep : latched.Inv ∧ calValid latched.cal = true ∧ ∃ t, step latched = .next t :=
  ⟨fun _ => by decide, calT_valid, _, latched_steps⟩

theorem witness_ResultsRepeatStateKept : ResultsRepeatState latched ∧ ∃ t, step latched = .next t :=
  ⟨by decide, _, latched_steps⟩

/-- Message 4 of the test instance carries no counter; the entries 5 to 15 belong to no message. -/
theorem witness_SilentCountersStayZero :
    SilentCountersZero latched ∧ (∃ t, step latched = .next t) ∧
      ((messages calT.msg)[4]?.map fun m => m.1.hasCnt) = some false :=
  ⟨fun _ m _ => (by decide : ∀ m : MsgIndex, latched.rc[m] = 0#4) m, ⟨_, latched_steps⟩, by decide⟩

theorem witness_StepWritesResults : calValid stateP1.cal = true := calT_valid

theorem witness_InactiveForcesZero : calValid State.reset.cal = true ∧ State.reset.inp.longActive = false :=
  ⟨calT_valid, rfl⟩

/-- Speeds 0, one raw unit below `CREEP_SPEED`, and `CREEP_SPEED`. -/
theorem witness_CreepRampAndBalance :
    calValid calT = true ∧ (⟨raw 131072, 0#32, 0#32, true⟩ : Conditioned).active = true ∧
    0 ≤ (0#32).toInt ∧ (0#32).toInt < calT.creepSpeed.toInt ∧
    0 ≤ (raw 131071).toInt ∧ (raw 131071).toInt < calT.creepSpeed.toInt ∧
    0 ≤ (raw 131072).toInt ∧ calT.creepSpeed.toInt ≤ (raw 131072).toInt :=
  ⟨calT_valid, by decide⟩

theorem witness_BalanceIsSplit :
    (condition calT opsP1).active = true ∧ calValid stateP1.cal = true ∧ stateP1.inp.longActive = true :=
  ⟨by decide, calT_valid, rfl⟩

theorem witness_StepLimitsTorque :
    calValid stateP1.cal = true ∧ TorqueInUnit stateP1 ∧
      State.reset.inp.torqueReq.toInt = State.reset.act.lastTorque.toInt :=
  ⟨calT_valid, by decide⟩

/-- The raw brake at `HYST_ON` and one above with the latch clear, one below `HYST_OFF` and at it with the latch set. -/
theorem witness_BrakeHysteresisLaw :
    calValid calT = true ∧
    [2048, 2049].map (fun b => (stepLocals calT (braking b) ActuatorState.zero).drive.brakeRaw.toInt) =
      [calT.hystOn.toInt, calT.hystOn.toInt + 1] ∧
    [511, 512].map (fun b => (stepLocals calT (braking b) latched.act).drive.brakeRaw.toInt) =
      [calT.hystOff.toInt - 1, calT.hystOff.toInt] ∧
    ActuatorState.zero.braking = false ∧ latched.act.braking = true :=
  ⟨calT_valid, by decide⟩

theorem witness_BrakeHysteresisSettles :
    calValid latched.cal = true ∧ FractionsInUnit latched ∧ LatchMatchesSteady latched ∧
      after (exec .step latched) (fun t => t.act.braking) = true :=
  ⟨calT_valid, by decide +kernel⟩

theorem witness_BrakeReleaseIsLimited : calValid latched.cal = true ∧ FractionsInUnit latched :=
  ⟨calT_valid, by decide⟩

theorem witness_TorqueCodeIsBounded :
    calValid calT = true ∧ ∀ x ∈ calT.tq.v, |x.toInt| ≤ (raw 196608000).toInt :=
  ⟨calT_valid, by
    have h : (calT.tq.v.all fun x => decide (|x.toInt| ≤ (raw 196608000).toInt)) = true := by decide
    exact fun x hx => of_decide_eq_true (List.all_eq_true.1 h x hx)⟩

theorem witness_TorqueCodeIsOdd : calValid calOdd = true ∧ (fxneg (raw 1)).toInt = -1 := ⟨calOdd_valid, by decide⟩

theorem witness_SpeedTargetFollowsCurve :
    calValid stateP1.cal = true ∧ stateP1.inp.longActive = true ∧ State.reset.inp.longActive = false :=
  ⟨calT_valid, rfl, rfl⟩

/-- Active with a positive acceleration, active with acceleration 0, inactive. -/
theorem witness_AccelCodeOfAcceleration :
    calValid stateP1.cal = true ∧ stateP1.inp.longActive = true ∧ (condition calT opsP1).aIn.toInt = 131072 ∧
      (condition calT (braking 0)).aIn.toInt = 0 ∧ (braking 0).longActive = true ∧
      State.reset.inp.longActive = false :=
  ⟨calT_valid, rfl, by decide⟩

theorem witness_GearCodeFromTable : calValid stateP1.cal = true := calT_valid

/-- Both readings of the scale; net brake 0 on the first, 1.0 on the second. -/
theorem witness_BrakeCodeOnProtectionTick :
    calValid State.reset.cal = true ∧ State.reset.act.frame.toNat % 2 = 0 ∧
    after (exec .step State.reset) (fun t => t.act.brakeLast == 0#32) = true ∧
    calValid calClip = true ∧
    after (exec .step { withOps { braking 65536 with speed := 0#32 } with cal := calClip })
      (fun t => t.act.brakeLast.toInt == 65536 && t.act.applyBrakeLast == 255#16) = true :=
  ⟨calT_valid, by decide, by decide, calClip_valid, by decide⟩

/-- Elapsed times at the two strict boundaries of 41 R159, and across the wrap of the clock (95 section 4.5). -/
theorem witness_PumpHysteresisLaw :
    calValid latched.cal = true ∧ latched.act.frame.toNat % 2 = 0 ∧
    pumpRuns calT 121#16 199#32 = true ∧ pumpRuns calT 121#16 200#32 = false ∧
    pumpTimerResets calT 121#16 121#16 20000#32 = false ∧ pumpTimerResets calT 121#16 121#16 20001#32 = true ∧
    elapsed 100#32 4294967000#32 = 396#32 :=
  ⟨calT_valid, by decide⟩

theorem witness_ProtectionHeldOnOtherTicks :
    calValid latched.cal = true ∧ ({ latched.act with frame := 5#4 } : ActuatorState).frame.toNat % 2 = 1 :=
  ⟨calT_valid, by decide⟩

/-- `ENC.STEER` of the test instance: a valid message with a counter and a checksum, and bit 4, which no field uses. -/
theorem witness_FrameFieldsReadBack :
    MessageValid layT.steer.hdr ((steerSlots calT opsP1 Results.zero).map Prod.fst) ∧
    layT.steer.hdr.hasCnt = true ∧ layT.steer.hdr.hasCsum = true ∧
    (usedRanges layT.steer.hdr (steerDescriptors layT.steer)).all (fun r => !decide (r.1 ≤ 4 ∧ 4 < r.1 + r.2))
      = true := by decide

/-- An instance of either steering source, with its slots present. -/
theorem witness_SteerFrameHoldsItsSlots :
    calValid stateP1.cal = true ∧ calValid calAngle = true ∧
      (steerDescriptors layT.steer).all (·.present) = true :=
  ⟨calT_valid, calAngle_valid, by decide⟩

theorem witness_LongFrameHoldsItsSlots :
    calValid stateP1.cal = true ∧ (longDescriptors layT.long).all (·.present) = true := ⟨calT_valid, by decide⟩

theorem witness_BrakeFrameHoldsItsSlots :
    calValid stateP1.cal = true ∧ (brakeDescriptors layT.brake).all (·.present) = true := ⟨calT_valid, by decide⟩

theorem witness_ParkFrameHoldsItsSlots :
    calValid stateP1.cal = true ∧ (parkDescriptors layT.park).all (·.present) = true := ⟨calT_valid, by decide⟩

/-- With the row of the frame set, and with it unset. -/
theorem witness_StateFrameHoldsItsSignals :
    calValid stateP1.cal = true ∧ stateP1.cal.msg.state[0]?.isSome = true ∧
      stateP1.inp.stateVal[0]?.isSome = true ∧ State.reset.inp.stateVal[0]? = none :=
  ⟨calT_valid, by decide⟩

/-- A message with a counter and a checksum, and a command that ends in an error. -/
theorem witness_CounterCarriedThenAdvanced :
    calValid stateP1.cal = true ∧
    encodedMessage stateP1.cal .encSteer = some (0, layT.steer.hdr, steerDescriptors layT.steer) ∧
    layT.steer.hdr.hasCnt = true ∧ exec (.encState 1) stateP1 = .next (raise .errEncode stateP1) ∧
    (raise .errEncode stateP1).status.code ≠ .ok :=
  ⟨calT_valid, rfl, rfl,
    (execEncState_of_unknown (k := 1) (s := stateP1) (by decide)).trans
      (congrArg _ (reject_of_valid (s := stateP1) _ calT_valid)), by decide⟩

theorem witness_ChecksumInLastByte :
    calValid stateP1.cal = true ∧
    encodedMessage stateP1.cal .encPark = some (3, layT.park.hdr, parkDescriptors layT.park) ∧
    layT.park.hdr.hasCsum = true :=
  ⟨calT_valid, rfl, rfl⟩

theorem witness_EncodesIgnoreActuatorState :
    Instr.encSteer ≠ .step ∧ Instr.encSteer ≠ .tick ∧ ∃ t, exec .encSteer stateP1 = .next t :=
  ⟨by decide, by decide, _, runCommand_of_valid (s := stateP1) sendSteer calT_valid⟩

theorem witness_CancelHasNoEffect : ∃ t, exec .tick stateP1 = .next t :=
  ⟨_, runCommand_of_valid (s := stateP1) runTick calT_valid⟩

theorem witness_TickIsStepThenGatedEncodes : calValid stateP1.cal = true := calT_valid

theorem witness_TickSendsGatedMessagesInOrder : calValid stateP1.cal = true := calT_valid

/-- Message 4 carries no counter, message 0 does, index 5 belongs to no message. -/
theorem witness_TickTakesItsStep :
    calValid stateP1.cal = true ∧ (messages stateP1.cal.msg)[5]? = none ∧
      ((messages stateP1.cal.msg).map fun m => m.1.hasCnt) = [true, true, true, true, false] :=
  ⟨calT_valid, by decide⟩

theorem witness_SaturatingArithmetic : (raw fxMin).toInt ≤ (raw fxMax).toInt := by decide

theorem witness_FxdivIsSaturatedFloor : (raw 3).toInt ≠ 0 ∧ 0 < (raw 3).toInt ∧ (raw (-3)).toInt < 0 := by decide

theorem witness_RoundNearestTiesAway :
    2 * |(raw 163840).toInt - 65536 * roundNearest (raw 163840)| = 65536 := by decide

theorem witness_ToCodeTruncates :
    0 ≤ (0#32).toInt ∧ (0#32).toInt ≤ fxOne.toInt ∧ fxOne.toInt ≤ 65536 := by decide

/-- A positive scale and a tie. -/
theorem witness_QuantRoundsToNearest :
    0 < (raw 131072).toInt ∧ 2 * |(196608 : Int) - (raw 131072).toInt * quant 196608 (raw 131072)| =
      (raw 131072).toInt := by decide

/-- A table, an argument at its first breakpoint, one at its last, and one between, at the second breakpoint. -/
theorem witness_InterpolateFollowsItsTable :
    (tablePoints calT.tq).head? = some (0#32, 0#32) ∧
    (tablePoints calT.tq).getLast? = some (raw 65536, raw 196608000) ∧
    (0#32).toInt ≤ (0#32).toInt ∧ (raw 65536).toInt ≤ (raw 65536).toInt ∧
    (0#32).toInt < (raw 32768).toInt ∧ (raw 32768).toInt < (raw 65536).toInt ∧
    (tablePoints calT.tq)[1]? = some (raw 32768, raw 65536000) ∧
    (tablePoints calT.tq)[2]? = some (raw 65536, raw 196608000) := by decide +kernel

/-- A calibration table, its mirror, and a list of 17 points, which is no calibration table. -/
theorem witness_InterpolateExactAtBreakpoints :
    (((List.range 17).map fun k => ((raw k, raw 7) : Point)).Pairwise fun a b => a.1.toInt < b.1.toInt) ∧
    ((List.range 17).map fun k => ((raw k, raw 7) : Point))[16]? = some (raw 16, raw 7) ∧
    TableValid calT.tq ∧ tabRead calT.tq 2 = some (raw 65536, raw 196608000) ∧
    calT.tq.bp.head? = some 0#32 ∧ calT.tq.v.head? = some 0#32 ∧
    tabRead (mirrorTable calT.tq) 0 = some (raw (-65536), raw (-196608000)) := by decide

/-- Limits that are 0, and a target at the edge of the window. -/
theorem witness_RateLimitStaysInWindow :
    0 ≤ (0#32).toInt ∧ 0 ≤ (raw 4096).toInt ∧ (raw 4096).toInt ≤ (0#32).toInt + (raw 4096).toInt := by decide

theorem witness_MirrorTableIsOdd :
    TableValid calT.tq ∧ calT.tq.bp.head? = some 0#32 ∧ calT.tq.v.head? = some 0#32 ∧
      (∀ x ∈ calT.tq.v, fxMin < x.toInt) ∧ tabRead (mirrorTable calT.tq) 0 = some (raw (-65536), raw (-196608000)) ∧
      tabRead (mirrorTable calT.tq) 4 = some (raw 65536, raw 196608000) :=
  ⟨by decide, by decide, by decide, by
    have h : (calT.tq.v.all fun x => decide (fxMin < x.toInt)) = true := by decide
    exact fun x hx => of_decide_eq_true (List.all_eq_true.1 h x hx), by decide, by decide⟩

/-- The narrowest field at the top of the payload and the widest at the bottom. -/
theorem witness_PayloadInsertWritesItsField :
    (1 ≤ 1 ∧ 1 ≤ 32 ∧ 63 + 1 ≤ 64) ∧ (1 ≤ 32 ∧ 32 ≤ 32 ∧ 0 + 32 ≤ 64) := by decide

theorem witness_ChecksumDetectsOneByte : (0x00#8 : Byte) ≠ 0x80#8 := by decide

/-- Both ends of both ranges, for the widths 1 and 8, and one beyond each. -/
theorem witness_SatFieldSaturates :
    [-1, 0, 1, 2].map (fun q => satField q 1 false) = [0, 0, 1, 1] ∧
    [-1, 0, 255, 256].map (fun q => satField q 8 false) = [0, 0, 255, 255] ∧
    [-2, -1, 0, 1].map (fun q => satField q 1 true) = [-1, -1, 0, 0] ∧
    [-129, -128, 127, 128].map (fun q => satField q 8 true) = [-128, -128, 127, 127] := by decide

end Sys2Proof.Tests
end

/-! PROOFS. `STATUS` (10 R36) and the reset values (10 R43): the layout of the register, one equation of `step` per
host action, the result of a command word, and the state of the block right after a reset. -/

namespace Sys2Proof.Machine

/-! ### The layout of `STATUS` -/

/-- `STATUS` as the host reads it, by the values of its four fields (10 R36). -/
def statusBits (code : BitVec 2) (cfg enc cmd : Bool) : Byte :=
  0#3 ++ BitVec.ofBool cmd ++ BitVec.ofBool enc ++ BitVec.ofBool cfg ++ code

theorem statusWord_eq (s : State) :
    s.statusWord = statusBits s.status.code.bits s.cfgFault s.status.encErrSeen s.status.cmdErrSeen := rfl

/-- The fields of `STATUS` weigh as their bit positions say. -/
theorem statusBits_toNat : ∀ (code : BitVec 2) (cfg enc cmd : Bool),
    (statusBits code cfg enc cmd).toNat = code.toNat + 4 * cfg.toNat + 8 * enc.toNat + 16 * cmd.toNat := by
  decide

theorem statusBits_flags : ∀ (code : BitVec 2) (cfg enc cmd : Bool),
    (statusBits code cfg enc cmd).getLsbD 2 = cfg ∧ (statusBits code cfg enc cmd).getLsbD 3 = enc ∧
      (statusBits code cfg enc cmd).getLsbD 4 = cmd := by
  decide

/-- Bits 1:0 of `STATUS` are the code (10 R36). -/
theorem statusWord_mod_four (s : State) : s.statusWord.toNat % 4 = s.status.code.bits.toNat := by
  have hcode := s.status.code.bits.isLt
  rw [statusWord_eq, statusBits_toNat]
  omega

/-- Bits 7:5 of `STATUS` are zero (10 R36). -/
theorem statusWord_lt (s : State) : s.statusWord.toNat < 32 := by
  have hcode := s.status.code.bits.isLt
  have hcfg := Bool.toNat_lt s.cfgFault
  have henc := Bool.toNat_lt s.status.encErrSeen
  have hcmd := Bool.toNat_lt s.status.cmdErrSeen
  rw [statusWord_eq, statusBits_toNat]
  omega

/-! ### One equation of `step` per host action -/

section StepEquations

variable {s : State} {rest : List HostItem} {w : Byte}

theorem step_operands {o : Operands} (hp : s.pending = .operands o :: rest) :
    step s = .next (drivePorts o { s with pending := rest }) := by
  simp only [step, hp]

theorem step_reset (hp : s.pending = .reset :: rest) : step s = .next (resetBlock { s with pending := rest }) := by
  simp only [step, hp]

theorem step_command {i : Instr} (hp : s.pending = .command w :: rest) (hd : decode w = .command i) :
    step s = exec i { s with pending := rest } := by
  simp only [step, hp, hd]

theorem step_unknownMessage (hp : s.pending = .command w :: rest) (hd : decode w = .unknownMessage) :
    step s = .next (reject .errEncode { s with pending := rest }) := by
  simp only [step, hp, hd]

theorem step_reservedWord (hp : s.pending = .command w :: rest) (hd : decode w = .reservedWord) :
    step s = .next (reject .errCmd { s with pending := rest }) := by
  simp only [step, hp, hd]

end StepEquations

/-! ### The class of a word by what it decodes to -/

/-- The word of a command executes, unless the command encodes a power/state frame that is not configured (30 R82). -/
theorem wordClass_of_command {w : Byte} {i : Instr} (n : Nat) (hd : decode w = .command i) :
    (wordClass n w = .executes ∧ ∀ k, i = .encState k → k < n) ∨
    (wordClass n w = .errEncode ∧ ∃ k, i = .encState k ∧ n ≤ k) := by
  cases i with
  | encState k =>
    rcases Nat.lt_or_ge k n with hk | hk
    · simp [wordClass, hd, hk]
    · simp [wordClass, hd, hk, Nat.not_lt.2 hk]
  | _ => simp [wordClass, hd]

theorem wordClass_of_unknownMessage {w : Byte} (n : Nat) (hd : decode w = .unknownMessage) :
    wordClass n w = .errEncode := by
  simp only [wordClass, hd]

theorem wordClass_of_reservedWord {w : Byte} (n : Nat) (hd : decode w = .reservedWord) :
    wordClass n w = .errCmd := by
  simp only [wordClass, hd]

/-! ### The status a command word leaves -/

/-- Completion writes `STATUS` as a result `OK` does: no sticky bit is set (10 R36). -/
theorem complete_status_eq_raise (s : State) : (complete s).status = (raise .ok s).status := by
  simp

/-- A `TICK` writes `STATUS` as its `STEP` does. -/
theorem runTick_status (s : State) : (runTick s).status = s.status :=
  (withoutSends_eq (withoutSends_sendAll (runStep s))).2.1

/-- A command whose message is configured completes under a valid configuration (60 R221). -/
theorem exec_status_of_configured {i : Instr} {s t : State} (hv : calValid s.cal = true)
    (hi : ∀ k, i = .encState k → k < s.cal.nState) (h : exec i s = .next t) :
    t.status = (raise .ok s).status := by
  rw [← complete_status_eq_raise]
  rcases exec_cases hv h with ⟨-, rfl⟩ | ⟨-, rfl⟩ | ⟨-, rfl⟩ | ⟨-, rfl⟩ | ⟨-, rfl⟩ | ⟨k, m, -, -, rfl⟩ |
    ⟨k, rfl, hk, -⟩ | ⟨-, rfl⟩
  iterate 6 · rfl
  · exact absurd (hi k rfl) (Nat.not_lt.2 (List.getElem?_eq_none_iff.1 hk))
  · rw [complete_status, runTick_status]; rfl

/-- `ENC.STATE k` of a frame that is not configured, under a valid configuration (60 R225). -/
theorem exec_encState_unconfigured {k : Nat} {s : State} (hv : calValid s.cal = true) (hk : s.cal.nState ≤ k) :
    exec (.encState k) s = .next (raise .errEncode s) := by
  rw [exec, execEncState_of_unknown (List.getElem?_eq_none_iff.2 hk), reject_of_valid _ hv]

/-- The result code of a word of each class under a valid configuration (30 R82). -/
def classResult : WordClass → StatusCode
  | .executes => .ok
  | .errEncode => .errEncode
  | .errCmd => .errCmd

/-- The result code of a command word: that of its class, or `ERR_CONFIG` under a configuration fault (60 R227). -/
def wordResult (c : Calibration) (w : Byte) : StatusCode :=
  if calValid c = true then classResult (wordClass c.nState w) else .errConfig

theorem wordResult_of_valid {c : Calibration} (w : Byte) (hv : calValid c = true) :
    wordResult c w = classResult (wordClass c.nState w) := if_pos hv

theorem wordResult_of_fault {c : Calibration} (w : Byte) (hv : calValid c = false) :
    wordResult c w = .errConfig := if_neg (by simp [hv])

/-- Under a configuration fault every command word raises `ERR_CONFIG` (60 R222, R227). -/
theorem step_word_of_fault {s : State} {w : Byte} {rest : List HostItem} (hv : calValid s.cal = false)
    (hp : s.pending = .command w :: rest) : step s = .next (raise .errConfig { s with pending := rest }) := by
  cases hd : decode w with
  | command i => rw [step_command hp hd]; exact exec_of_fault i hv
  | unknownMessage => rw [step_unknownMessage hp hd]; exact congrArg _ (reject_of_fault _ hv)
  | reservedWord => rw [step_reservedWord hp hd]; exact congrArg _ (reject_of_fault _ hv)

/-- Under a valid configuration a command word writes `STATUS` as its class says (10 R36, 30 R82). -/
theorem step_word_status_of_valid {s t : State} {w : Byte} {rest : List HostItem} (hv : calValid s.cal = true)
    (hp : s.pending = .command w :: rest) (h : step s = .next t) :
    t.status = (raise (classResult (wordClass s.cal.nState w)) s).status := by
  cases hd : decode w with
  | command i =>
    rw [step_command hp hd] at h
    rcases wordClass_of_command s.cal.nState hd with ⟨hw, hi⟩ | ⟨hw, k, rfl, hk⟩
    · rw [hw]; exact exec_status_of_configured (s := { s with pending := rest }) hv hi h
    · rw [exec_encState_unconfigured (s := { s with pending := rest }) hv hk, Host.Outcome.next.injEq] at h
      rw [hw, ← h]; rfl
  | unknownMessage =>
    rw [step_unknownMessage hp hd, reject_of_valid (s := { s with pending := rest }) _ hv, Host.Outcome.next.injEq] at h
    rw [wordClass_of_unknownMessage _ hd, ← h]; rfl
  | reservedWord =>
    rw [step_reservedWord hp hd, reject_of_valid (s := { s with pending := rest }) _ hv, Host.Outcome.next.injEq] at h
    rw [wordClass_of_reservedWord _ hd, ← h]; rfl

/-- Every command word writes `STATUS` as an outcome with its result code does (10 R36). -/
theorem step_word_status {s t : State} {w : Byte} {rest : List HostItem} (hp : s.pending = .command w :: rest)
    (h : step s = .next t) : t.status = (raise (wordResult s.cal w) s).status := by
  cases hv : calValid s.cal with
  | true => rw [wordResult_of_valid w hv]; exact step_word_status_of_valid hv hp h
  | false =>
    rw [step_word_of_fault hv hp, Host.Outcome.next.injEq] at h
    rw [wordResult_of_fault w hv, ← h]; rfl

/-- Settles O10: the register is the weighted sum of its fields, and each host action writes them as its own equation
of `step` says, a command word as `step_word_status`. -/
theorem statusRegisterFollowsItsTable : Obligations.StatusRegisterFollowsItsTable := by
  refine ⟨fun s => ?_, fun s t a rest hp h => ?_⟩
  · obtain ⟨hcfg, henc, hcmd⟩ := statusBits_flags s.status.code.bits s.cfgFault s.status.encErrSeen s.status.cmdErrSeen
    refine ⟨?_, (Bool.eq_iff_iff.1 hcfg).trans (cfgFault_eq_true s), henc, hcmd, statusWord_lt s⟩
    rw [statusWord_mod_four]
    cases s.status.code <;> rfl
  · cases a with
    | command w =>
      have hst := step_word_status hp h
      have hcode : t.status.code = wordResult s.cal w := by rw [hst, raise_status]
      refine ⟨hcode, ?_, ?_⟩ <;> rw [hcode, hst, raise_status]
    | operands o =>
      rw [step_operands hp, Host.Outcome.next.injEq] at h
      rw [← h, drivePorts_status]
    | reset =>
      rw [step_reset hp, Host.Outcome.next.injEq] at h
      rw [← h]; rfl

/-! ### The state of the block after a reset -/

/-- The state the spec gives the block (10 R20), with parameter set `c`, at its reset values (10 R43). -/
structure AtReset (c : Calibration) (t : State) : Prop where
  act : t.act = .zero
  rc : t.rc = Vector.replicate 16 0#4
  status : t.status = .zero
  out : t.out = .zero
  tel : t.tel = .zero
  cal : t.cal = c

/-- Construction puts the block at its reset values (70 R251). -/
theorem atReset_resetWith (c : Calibration) : AtReset c (State.resetWith c) := ⟨rfl, rfl, rfl, rfl, rfl, rfl⟩

/-- A reset between commands puts the block at its reset values, from any state (70 R250). -/
theorem atReset_of_step_reset {s t : State} {rest : List HostItem} (hp : s.pending = .reset :: rest)
    (h : step s = .next t) : AtReset s.cal t := by
  rw [step_reset hp, Host.Outcome.next.injEq] at h
  subst h
  exact ⟨resetBlock_act _, resetBlock_rc _, resetBlock_status _, resetBlock_out _, resetBlock_tel _, resetBlock_cal _⟩

/-- At reset `STATUS` reads 0 but for `cfgFault` (10 R43). -/
theorem AtReset.statusWord {c : Calibration} {t : State} (ht : AtReset c t) :
    t.statusWord = if calValid c then 0x00#8 else 0x04#8 := by
  rw [State.statusWord, State.cfgFault, ht.status, ht.cal]
  cases calValid c <;> rfl

/-- Every rolling counter is 0 at reset (10 R43). -/
theorem AtReset.rc_getElem {c : Calibration} {t : State} (ht : AtReset c t) (m : MsgIndex) : t.rc[m] = 0#4 := by
  rw [ht.rc]; exact Vector.getElem_replicate _

/-- Settles O11: construction and a reset between commands both end in `AtReset`, whose registers are the zero
records. -/
theorem resetValues : Obligations.ResetValues := by
  intro c t horigin
  have ht : AtReset c t := by
    rcases horigin with rfl | ⟨s, rest, rfl, hp, h⟩
    · exact atReset_resetWith c
    · exact atReset_of_step_reset hp h
  have hrc := ht.rc_getElem
  have hword := ht.statusWord
  obtain ⟨hact, -, hstatus, hout, htel, hcal⟩ := ht
  simp [hact, hrc, hout, htel, hstatus, hword, hcal, ActuatorState.zero, Results.zero, Telemetry.zero, Status.zero]

end Sys2Proof.Machine

/-! PROOFS. The payload write (20 R65): the field as a number, and its frame. -/

namespace Sys2Proof.Machine

/-- Read back as a number, the field `PayloadInsert` wrote is `q mod 2^w` (20 R65). -/
theorem payloadInsert_field (p : Payload) {off w : Nat} (q : Int) (hfit : off + w ≤ 64) :
    (payloadInsert p off w q).toNat / 2 ^ off % 2 ^ w = (q.emod (2 ^ w)).toNat := by
  apply Nat.eq_of_testBit_eq
  intro j
  have hbit := getLsbD_payloadInsert p off w q (j + off)
  rw [Nat.testBit_mod_two_pow, Nat.testBit_div_two_pow, BitVec.testBit_toNat, hbit]
  by_cases hj : j < w
  · have hin : off ≤ j + off ∧ j + off < off + w := by omega
    have hlt : j + off < 64 := by omega
    simp [hj, hin, hlt]
  · simp [hj, testBit_emod_of_ge q (Nat.le_of_not_lt hj)]

/-- `PayloadInsert` leaves every bit outside its field as it was (20 R65). -/
theorem payloadInsert_frame (p : Payload) {off w : Nat} (q : Int) {i : Nat} (hi : i < off ∨ off + w ≤ i) :
    (payloadInsert p off w q).getLsbD i = p.getLsbD i := by
  rw [getLsbD_payloadInsert, if_neg (by omega)]

/-- Settles O55: the field read back as a number, and the bits outside it. -/
theorem payloadInsertWritesItsField : Obligations.PayloadInsertWritesItsField := by
  intro p off w q _ _ hfit
  have hnonneg : 0 ≤ q.emod (2 ^ w) := Int.emod_nonneg q (by positivity)
  refine ⟨?_, fun i hi => payloadInsert_frame p q hi⟩
  rw [payloadInsert_field p q hfit]
  exact Int.toNat_of_nonneg hnonneg

end Sys2Proof.Machine

/-! PROOFS. The command word (30 section 1): its two fields as numbers, what the decoder reads in each range of words,
and the class of every word. -/

namespace Sys2Proof.Machine

/-! ### The fields of a word -/

/-- `op = cmd[7:4]` as a number (30 R80). -/
theorem opField_toNat (w : Byte) : (opField w).toNat = w.toNat / 16 := by
  simp only [opField, BitVec.extractLsb'_toNat, Nat.shiftRight_eq_div_pow]
  omega

/-- `arg = cmd[3:0]` as a number (30 R80). -/
theorem argField_toNat (w : Byte) : (argField w).toNat = w.toNat % 16 := by
  simp [argField, BitVec.extractLsb'_toNat]

theorem opField_eq_iff (w : Byte) (k : BitVec 4) : opField w = k ↔ w.toNat / 16 = k.toNat := by
  rw [← BitVec.toNat_inj, opField_toNat]

theorem argField_eq_iff (w : Byte) (k : BitVec 4) : argField w = k ↔ w.toNat % 16 = k.toNat := by
  rw [← BitVec.toNat_inj, argField_toNat]

/-! ### What the decoder reads -/

/-- A row of the command map whose mask takes every bit is read back from its one word (30 R81). -/
theorem decode_encode_of_fullMask {i : Instr} (hi : (opcodeRow i).2 = 0xFF#8) : decode (encode i) = .command i := by
  cases i with
  | encState k => exact absurd hi (by decide : (0xF0#8 : Byte) ≠ 0xFF#8)
  | _ => rfl

/-- The row `ENC.STATE` of the command map (30 R81). -/
theorem decode_eq_encState {w : Byte} (hlo : 0x40 ≤ w.toNat) (hhi : w.toNat ≤ 0x4F) :
    decode w = .command (.encState (w.toNat - 0x40)) := by
  have hop : opField w = 4#4 := (opField_eq_iff w _).2 (by simp; omega)
  have harg : (argField w).toNat = w.toNat - 0x40 := by rw [argField_toNat]; omega
  simp [decode, hop, harg]

/-- An `ENC` of a kind number 4 to 15 (30 R82 (a)). -/
theorem decode_eq_unknownMessage {w : Byte} (hlo : 0x24 ≤ w.toNat) (hhi : w.toNat ≤ 0x2F) :
    decode w = .unknownMessage := by
  have hop : opField w = 2#4 := (opField_eq_iff w _).2 (by simp; omega)
  have harg (k : BitVec 4) (hk : k.toNat < 4) : argField w ≠ k := by rw [ne_eq, argField_eq_iff]; omega
  simp [decode, hop, harg]

/-- The reserved words (30 R82 (b)). -/
theorem decode_eq_reservedWord {w : Byte}
    (hw : w.toNat < 0x10 ∨ (0x11 ≤ w.toNat ∧ w.toNat ≤ 0x1F) ∨ (0x31 ≤ w.toNat ∧ w.toNat ≤ 0x3F) ∨ 0x50 ≤ w.toNat) :
    decode w = .reservedWord := by
  have hstep : ¬ (opField w = 1#4 ∧ argField w = 0#4) := by simp [opField_eq_iff, argField_eq_iff]; omega
  have htick : ¬ (opField w = 3#4 ∧ argField w = 0#4) := by simp [opField_eq_iff, argField_eq_iff]; omega
  have henc : opField w ≠ 2#4 := by simp [opField_eq_iff]; omega
  have hstate : opField w ≠ 4#4 := by simp [opField_eq_iff]; omega
  rw [decode, if_neg hstep, if_neg htick, if_neg henc, if_neg hstate]

/-- Settles O2: the fixed rows by `decode_encode_of_fullMask`, the row `ENC.STATE` by `decode_eq_encState`. -/
theorem commandMapDecodes : Obligations.CommandMapDecodes :=
  ⟨decode_encode_of_fullMask (i := .step) rfl, decode_encode_of_fullMask (i := .encSteer) rfl,
    decode_encode_of_fullMask (i := .encLong) rfl, decode_encode_of_fullMask (i := .encBrake) rfl,
    decode_encode_of_fullMask (i := .encPark) rfl, decode_encode_of_fullMask (i := .tick) rfl,
    fun _ hlo hhi => decode_eq_encState hlo hhi⟩

/-! ### The class of a word by its value -/

/-- The word of a fixed row of the command map executes, whatever frames are configured (30 R81). -/
theorem wordClass_of_fullMask (n : Nat) {w : Byte} (i : Instr) (hi : (opcodeRow i).2 = 0xFF#8)
    (hw : w.toNat = (encode i).toNat) : wordClass n w = .executes := by
  obtain rfl : w = encode i := BitVec.eq_of_toNat_eq hw
  rcases wordClass_of_command n (decode_encode_of_fullMask hi) with ⟨hc, -⟩ | ⟨-, k, rfl, -⟩
  · exact hc
  · exact absurd hi (by decide : (0xF0#8 : Byte) ≠ 0xFF#8)

/-- The word of `ENC.STATE` executes when its frame is configured, and raises `ERR_ENCODE` when not (30 R82). -/
theorem wordClass_of_encState (n : Nat) {w : Byte} (hlo : 0x40 ≤ w.toNat) (hhi : w.toNat ≤ 0x4F) :
    wordClass n w = if w.toNat - 0x40 < n then .executes else .errEncode := by
  simp only [wordClass, decode_eq_encState hlo hhi]

/-- The words that execute (30 R81, R82). -/
theorem wordClass_eq_executes {n : Nat} {w : Byte}
    (hw : w.toNat = 0x10 ∨ w.toNat = 0x30 ∨ (0x20 ≤ w.toNat ∧ w.toNat ≤ 0x23) ∨
      (0x40 ≤ w.toNat ∧ w.toNat ≤ 0x4F ∧ w.toNat - 0x40 < n)) : wordClass n w = .executes := by
  rcases hw with hstep | htick | henc | ⟨hlo, hhi, hk⟩
  · exact wordClass_of_fullMask n .step rfl hstep
  · exact wordClass_of_fullMask n .tick rfl htick
  · have hkind : w.toNat = 0x20 ∨ w.toNat = 0x21 ∨ w.toNat = 0x22 ∨ w.toNat = 0x23 := by omega
    rcases hkind with hsteer | hlong | hbrake | hpark
    · exact wordClass_of_fullMask n .encSteer rfl hsteer
    · exact wordClass_of_fullMask n .encLong rfl hlong
    · exact wordClass_of_fullMask n .encBrake rfl hbrake
    · exact wordClass_of_fullMask n .encPark rfl hpark
  · rw [wordClass_of_encState n hlo hhi, if_pos hk]

/-- The words that name no configured message (30 R82 (a)). -/
theorem wordClass_eq_errEncode {n : Nat} {w : Byte}
    (hw : (0x24 ≤ w.toNat ∧ w.toNat ≤ 0x2F) ∨ (0x40 ≤ w.toNat ∧ w.toNat ≤ 0x4F ∧ n ≤ w.toNat - 0x40)) :
    wordClass n w = .errEncode := by
  rcases hw with ⟨hlo, hhi⟩ | ⟨hlo, hhi, hk⟩
  · exact wordClass_of_unknownMessage n (decode_eq_unknownMessage hlo hhi)
  · rw [wordClass_of_encState n hlo hhi, if_neg (Nat.not_lt.2 hk)]

/-- Settles O3: every word stands in one of the three lists, which gives its class and keeps it out of the others. -/
theorem everyWordHasItsClass : Obligations.EveryWordHasItsClass := by
  intro n w
  have hlists : (w.toNat = 0x10 ∨ w.toNat = 0x30 ∨ (0x20 ≤ w.toNat ∧ w.toNat ≤ 0x23) ∨
        (0x40 ≤ w.toNat ∧ w.toNat ≤ 0x4F ∧ w.toNat - 0x40 < n)) ∨
      ((0x24 ≤ w.toNat ∧ w.toNat ≤ 0x2F) ∨ (0x40 ≤ w.toNat ∧ w.toNat ≤ 0x4F ∧ n ≤ w.toNat - 0x40)) ∨
      (w.toNat < 0x10 ∨ (0x11 ≤ w.toNat ∧ w.toNat ≤ 0x1F) ∨ (0x31 ≤ w.toNat ∧ w.toNat ≤ 0x3F) ∨ 0x50 ≤ w.toNat) := by
    omega
  rcases hlists with hexec | henc | hcmd
  · rw [wordClass_eq_executes hexec]
    exact ⟨iff_of_true rfl hexec, iff_of_false nofun (by omega), iff_of_false nofun (by omega)⟩
  · rw [wordClass_eq_errEncode henc]
    exact ⟨iff_of_false nofun (by omega), iff_of_true rfl henc, iff_of_false nofun (by omega)⟩
  · rw [wordClass_of_reservedWord n (decode_eq_reservedWord hcmd)]
    exact ⟨iff_of_false nofun (by omega), iff_of_false nofun (by omega), iff_of_true rfl hcmd⟩

end Sys2Proof.Machine

/-! PROOFS. The fixed-point primitives (40 section 1): saturation, the floored quotient, the two roundings to the
nearest integer, and the saturation to a field. -/

namespace Sys2Proof.Machine

/-! ### Saturating arithmetic -/

/-- Settles O46: each operation is the saturated integer operation, and saturation is monotone. -/
theorem saturatingArithmetic : Obligations.SaturatingArithmetic := by
  refine ⟨fun a b => ⟨toInt_fxadd a b, toInt_fxsub a b, toInt_fxneg a⟩, fun a a' b h => ?_⟩
  rw [toInt_fxadd, toInt_fxadd, toInt_fxsub, toInt_fxsub]
  omega

/-- Negation is exact but for `FX_MIN` (40 R110). -/
theorem toInt_fxneg_of_lt {x : Fx} (h : fxMin < x.toInt) : (fxneg x).toInt = -x.toInt := by
  have hx := fx_range x
  rw [toInt_fxneg]
  simp only [fxMin, fxMax] at *
  omega

/-! ### Floor division -/

/-- The floor is determined by the signed ratio: negating both operands leaves it as it is (40 R112). -/
theorem floorDiv_neg_neg (a : Int) {d : Int} (hd : d ≠ 0) : floorDiv (-a) (-d) = floorDiv a d := by
  rw [floorDiv, floorDiv, if_neg (by omega), if_neg hd, Int.neg_fdiv_neg]

/-- The floor of a quotient by a positive divisor (40 R112). -/
theorem floorDiv_bounds_of_pos (a : Int) {d : Int} (hd : 0 < d) :
    floorDiv a d * d ≤ a ∧ a < (floorDiv a d + 1) * d := by
  rw [floorDiv_of_pos hd]
  exact ⟨Int.ediv_mul_le a (by omega), Int.lt_ediv_add_one_mul_self a hd⟩

/-- The floor of a quotient by a negative divisor (40 R112). -/
theorem floorDiv_bounds_of_neg (a : Int) {d : Int} (hd : d < 0) :
    a ≤ floorDiv a d * d ∧ (floorDiv a d + 1) * d < a := by
  have hneg := floorDiv_bounds_of_pos (-a) (d := -d) (by omega)
  rw [floorDiv_neg_neg a (by omega), Int.mul_neg, Int.mul_neg] at hneg
  omega

/-- Floor division by a positive divisor is monotone. -/
theorem floorDiv_mono {a b d : Int} (hd : 0 < d) (h : a ≤ b) : floorDiv a d ≤ floorDiv b d := by
  rw [floorDiv_of_pos hd, floorDiv_of_pos hd]
  exact Int.ediv_le_ediv hd h

/-- Settles O47: the quotient is `floorDiv` of the scaled dividend, whose bounds depend on the sign of the divisor. -/
theorem fxdivIsSaturatedFloor : Obligations.FxdivIsSaturatedFloor :=
  fun a b _ => ⟨floorDiv (a.toInt * 65536) b.toInt, floorDiv_bounds_of_pos _, floorDiv_bounds_of_neg _, toInt_sat32 _⟩

/-! ### Codes of fractions -/

/-- The code is the truncated product (40 R117). -/
theorem toCode_bounds (f : Fx) (m : Nat) : toCode f m * 65536 ≤ f.toInt * m ∧ f.toInt * m < (toCode f m + 1) * 65536 :=
  floorDiv_bounds_of_pos _ (by decide)

theorem toCode_mono {f g : Fx} (m : Nat) (h : f.toInt ≤ g.toInt) : toCode f m ≤ toCode g m :=
  floorDiv_mono (by decide) (Int.mul_le_mul_of_nonneg_right h (Int.natCast_nonneg m))

@[simp] theorem toCode_zero (m : Nat) : toCode 0#32 m = 0 := by
  simp [toCode, floorDiv_of_pos]

/-- The code of 1.0 is the greatest code (40 R117). -/
@[simp] theorem toCode_one (m : Nat) : toCode 65536#32 m = m := by
  have hone : (65536#32).toInt = 65536 := toInt_fxOne
  rw [toCode, hone, floorDiv_of_pos (by decide), Int.mul_ediv_cancel_left _ (by decide)]

/-- Settles O49: the floor's bounds and monotonicity, and the codes of the two end points. -/
theorem toCodeTruncates : Obligations.ToCodeTruncates := by
  intro f g m _ hfg _
  obtain ⟨hle, hlt⟩ := toCode_bounds f m
  exact ⟨hle, hlt, toCode_mono m hfg, toCode_zero m, toCode_one m⟩

/-! ### Rounding to the nearest integer -/

/-- `q` is an integer nearest to `p / s`, and of two nearest ones the one farther from zero (40 R116, R118). -/
def IsNearestTiesAway (p s q : Int) : Prop :=
  2 * |p - s * q| ≤ s ∧ (2 * |p - s * q| = s → |p| < |s * q|)

theorem IsNearestTiesAway.neg {p s q : Int} (h : IsNearestTiesAway p s q) : IsNearestTiesAway (-p) s (-q) := by
  have hdist : -p - s * -q = -(p - s * q) := by ring
  rwa [IsNearestTiesAway, hdist, Int.mul_neg, abs_neg, abs_neg, abs_neg]

/-- The quotient with half of the divisor added, floored, is nearest to a non-negative quotient. -/
theorem isNearestTiesAway_floorDiv {p s : Int} (hp : 0 ≤ p) (hs : 0 < s) :
    IsNearestTiesAway p s (floorDiv (2 * p + s) (2 * s)) := by
  have hbounds := floorDiv_bounds_of_pos (2 * p + s) (d := 2 * s) (by omega)
  generalize floorDiv (2 * p + s) (2 * s) = q at hbounds ⊢
  have hlo : 2 * (s * q) ≤ 2 * p + s := by linarith
  have hhi : 2 * p < 2 * (s * q) + s := by linarith
  rcases abs_cases (p - s * q) with ⟨habs, -⟩ | ⟨habs, -⟩ <;> rw [IsNearestTiesAway, habs]
  · exact ⟨by omega, fun htie => absurd htie (by omega)⟩
  · refine ⟨by omega, fun htie => ?_⟩
    have haway : p < s * q := by omega
    rwa [abs_of_nonneg hp, abs_of_nonneg (by omega)]

/-- `Quant` is odd in its numerator (40 R118). -/
theorem quant_neg (p : Int) (scale : Fx) : quant (-p) scale = -quant p scale := by
  rw [quant, quant, Int.sign_neg, Int.natAbs_neg, Int.neg_mul]

/-- `Quant` of a non-negative numerator. -/
theorem quant_of_nonneg {p : Int} {scale : Fx} (hp : 0 ≤ p) (hs : 0 < scale.toInt) :
    quant p scale = floorDiv (2 * p + scale.toInt) (2 * scale.toInt) := by
  rw [quant, Int.natAbs_of_nonneg hp]
  obtain rfl | hpos := hp.eq_or_lt
  · rw [floorDiv_of_pos (by omega), Int.ediv_eq_zero_of_lt (by omega) (by omega), Int.mul_zero]
  · rw [Int.sign_eq_one_of_pos hpos, Int.one_mul]

/-- For a positive scale `Quant` rounds to the nearest integer, ties away from zero (40 R118). -/
theorem quant_isNearestTiesAway (p : Int) {scale : Fx} (hs : 0 < scale.toInt) :
    IsNearestTiesAway p scale.toInt (quant p scale) := by
  have hnonneg {n : Int} (hn : 0 ≤ n) : IsNearestTiesAway n scale.toInt (quant n scale) := by
    rw [quant_of_nonneg hn hs]
    exact isNearestTiesAway_floorDiv hn hs
  rcases Int.le_total 0 p with hp | hp
  · exact hnonneg hp
  · simpa [quant_neg] using (hnonneg (n := -p) (by omega)).neg

/-- A code at scale 1.0 is the only integer nearest to itself (40 R118). -/
theorem quant_fxOne (c : Int) : quant (c * 65536) fxOne = c := by
  have hnear := (quant_isNearestTiesAway (c * 65536) (scale := fxOne) (by decide)).1
  rw [toInt_fxOne] at hnear
  have hhalf : |c * 65536 - 65536 * quant (c * 65536) fxOne| ≤ 32768 := by linarith
  obtain ⟨hlo, hhi⟩ := abs_le.1 hhalf
  omega

/-- Settles O50: `quant_isNearestTiesAway`, and a code is its own nearest integer. -/
theorem quantRoundsToNearest : Obligations.QuantRoundsToNearest :=
  ⟨fun p _ hs => quant_isNearestTiesAway p hs, quant_fxOne⟩

/-- Rounding an fx value is quantising it at scale 1.0 (40 R116, R118). -/
theorem roundNearest_eq_quant (a : Fx) : roundNearest a = quant a.toInt fxOne := by
  rw [roundNearest, quant, toInt_fxOne, floorDiv_of_pos (by decide), floorDiv_of_pos (by decide)]
  congr 1
  omega

/-- `roundNearest` is odd, also at `FX_MIN`, whose saturated negative rounds to the same magnitude (40 R116). -/
theorem roundNearest_fxneg (a : Fx) : roundNearest (fxneg a) = -roundNearest a := by
  by_cases hmin : a.toInt = fxMin
  · obtain rfl : a = BitVec.ofInt 32 fxMin := fx_ext (hmin.trans (by decide))
    decide
  · have hlt : fxMin < a.toInt := lt_of_le_of_ne (fx_range a).1 (Ne.symm hmin)
    rw [roundNearest_eq_quant, roundNearest_eq_quant, toInt_fxneg_of_lt hlt, quant_neg]

/-- Settles O48: `roundNearest` is `Quant` at scale 1.0, and odd. -/
theorem roundNearestTiesAway : Obligations.RoundNearestTiesAway := by
  intro a
  have hnear := quant_isNearestTiesAway a.toInt (scale := fxOne) (by decide)
  rw [← roundNearest_eq_quant, toInt_fxOne] at hnear
  exact ⟨hnear.1, hnear.2, roundNearest_fxneg a⟩

/-! ### Saturation to a field -/

theorem clamp_eq_self {x lo hi : Int} (hlo : lo ≤ x) (hhi : x ≤ hi) : clamp x lo hi = x := by
  rw [clamp, max_eq_left hlo, min_eq_left hhi]

theorem clamp_eq_lo {x lo hi : Int} (hx : x ≤ lo) (h : lo ≤ hi) : clamp x lo hi = lo := by
  rw [clamp, max_eq_right hx, min_eq_left h]

theorem clamp_eq_hi {x lo hi : Int} (hx : hi ≤ x) : clamp x lo hi = hi :=
  min_eq_right (hx.trans (le_max_left x lo))

theorem satField_unsigned (q : Int) (w : Nat) : satField q w false = clamp q 0 (2 ^ w - 1) := rfl

theorem satField_signed (q : Int) (w : Nat) : satField q w true = clamp q (-2 ^ (w - 1)) (2 ^ (w - 1) - 1) := rfl

/-- Settles O57: a field saturates by `clamp` to its range, which is not empty. -/
theorem satFieldSaturates : Obligations.SatFieldSaturates := by
  intro q w _
  have hfull : (0 : Int) < 2 ^ w := by positivity
  have hhalf : (0 : Int) < 2 ^ (w - 1) := by positivity
  rw [satField_unsigned, satField_signed]
  exact ⟨fun hlo hhi => clamp_eq_self hlo (by omega), fun hhi => clamp_eq_hi (by omega),
    fun hlo => clamp_eq_lo (by omega) (by omega), fun hlo hhi => clamp_eq_self hlo (by omega),
    fun hhi => clamp_eq_hi (by omega), fun hlo => clamp_eq_lo (by omega) (by omega)⟩

end Sys2Proof.Machine

/-! PROOFS. The table lookup (40 section 2): the value on a segment before saturation, the segment the search stops at,
and the three arms of `interpolate`. -/

namespace Sys2Proof.Machine

/-! ### The value on a segment -/

/-- The floored share `u / d` of a difference lies between 0 and the difference (40 R120). -/
theorem floorDiv_share_between (n : Int) {u d : Int} (hu : 0 ≤ u) (hud : u ≤ d) (hd : 0 < d) :
    min 0 n ≤ floorDiv (n * u) d ∧ floorDiv (n * u) d ≤ max 0 n := by
  rw [floorDiv_of_pos hd]
  rcases Int.le_total 0 n with hn | hn
  · rw [min_eq_left hn, max_eq_right hn]
    exact ⟨Int.ediv_nonneg (Int.mul_nonneg hn hu) hd.le,
      Int.ediv_le_of_le_mul hd (Int.mul_le_mul_of_nonneg_left hud hn)⟩
  · rw [min_eq_right hn, max_eq_left hn]
    exact ⟨Int.le_ediv_of_mul_le hd (Int.mul_le_mul_of_nonpos_left hn hud),
      Int.ediv_le_of_le_mul hd (by simpa using Int.mul_nonpos_of_nonpos_of_nonneg hn hu)⟩

/-- On a segment the final `sat32` never changes the value (40 R120). -/
theorem toInt_onSegment {x : Fx} {a b : Point} (ha : a.1.toInt ≤ x.toInt) (hb : x.toInt < b.1.toInt) :
    (onSegment x a b).toInt =
      a.2.toInt + (b.2.toInt - a.2.toInt) * (x.toInt - a.1.toInt) / (b.1.toInt - a.1.toInt) := by
  have hd : 0 < b.1.toInt - a.1.toInt := by omega
  have hshare := floorDiv_share_between (b.2.toInt - a.2.toInt) (u := x.toInt - a.1.toInt) (by omega) (by omega) hd
  have hra := fx_range a.2
  have hrb := fx_range b.2
  rw [onSegment, toInt_sat32_of_range (by omega) (by omega), floorDiv_of_pos hd]

/-! ### The search -/

theorem interpFrom_cons_of_lt {x : Fx} (a : Point) {b : Point} (rest : List Point) (h : x.toInt < b.1.toInt) :
    interpFrom x a (b :: rest) = onSegment x a b := if_pos h

theorem interpFrom_cons_of_le {x : Fx} (a : Point) {b : Point} (rest : List Point) (h : b.1.toInt ≤ x.toInt) :
    interpFrom x a (b :: rest) = interpFrom x b rest := if_neg (Int.not_lt.2 h)

/-- The search stops on the segment whose right end is the first point after the first that exceeds `x`. -/
theorem interpFrom_eq_onSegment {x : Fx} {p q : Point} (hq : x.toInt < q.1.toInt) :
    ∀ (j : Nat) (a : Point) (rest : List Point), (a :: rest)[j]? = some p → (a :: rest)[j + 1]? = some q →
      (∀ (k : Nat) (r : Point), 1 ≤ k → k ≤ j → (a :: rest)[k]? = some r → r.1.toInt ≤ x.toInt) →
      interpFrom x a rest = onSegment x p q
  | _, _, [], _, hright, _ => by simp at hright
  | 0, a, b :: rest, hleft, hright, _ => by
    obtain rfl : a = p := by simpa using hleft
    obtain rfl : b = q := by simpa using hright
    exact interpFrom_cons_of_lt a rest hq
  | j + 1, a, b :: rest, hleft, hright, hbelow => by
    have hb : b.1.toInt ≤ x.toInt := hbelow 1 b le_rfl (by omega) (by simp)
    rw [interpFrom_cons_of_le a rest hb]
    exact interpFrom_eq_onSegment hq j b rest (by simpa using hleft) (by simpa using hright)
      fun k r _ hkj hr => hbelow (k + 1) r (by omega) (by omega) (by simpa using hr)

/-! ### The arms of the lookup -/

theorem interpolate_of_le_head {x : Fx} {t : List Point} {first : Point} (hf : t.head? = some first)
    (h : x.toInt ≤ first.1.toInt) : interpolate x t = first.2 := by
  obtain ⟨rest, rfl⟩ := List.head?_eq_some_iff.1 hf
  rw [interpolate_cons, if_pos h]

theorem interpolate_of_getLast_le {x : Fx} {t : List Point} {first last : Point} (hf : t.head? = some first)
    (hl : t.getLast? = some last) (h1 : first.1.toInt < x.toInt) (h2 : last.1.toInt ≤ x.toInt) :
    interpolate x t = last.2 := by
  obtain ⟨rest, rfl⟩ := List.head?_eq_some_iff.1 hf
  rw [List.getLast?_eq_getLast_of_ne_nil (List.cons_ne_nil _ _), Option.some_inj] at hl
  subst hl
  rw [interpolate_cons, if_neg (Int.not_le.2 h1), if_pos h2]

/-- Between its first and its last breakpoint a table is searched (40 R120). -/
theorem interpolate_eq_interpFrom {x : Fx} {first last : Point} {rest : List Point}
    (hl : (first :: rest).getLast? = some last) (h1 : first.1.toInt < x.toInt) (h2 : x.toInt < last.1.toInt) :
    interpolate x (first :: rest) = interpFrom x first rest := by
  rw [List.getLast?_eq_getLast_of_ne_nil (List.cons_ne_nil _ _), Option.some_inj] at hl
  subst hl
  rw [interpolate_cons, if_neg (Int.not_le.2 h1), if_neg (Int.not_le.2 h2)]

/-- Settles O51: one lemma for each arm; the left end of the segment found is at most `x`, as the first point or as one
the search has passed. -/
theorem interpolateFollowsItsTable : Obligations.InterpolateFollowsItsTable := by
  intro x t first last hf hl
  refine ⟨interpolate_of_le_head hf, interpolate_of_getLast_le hf hl, fun h1 h2 j a b hleft hright hb hbelow => ?_⟩
  obtain ⟨rest, rfl⟩ := List.head?_eq_some_iff.1 hf
  have ha : a.1.toInt ≤ x.toInt := by
    cases j with
    | zero =>
      obtain rfl : first = a := by simpa using hleft
      exact h1.le
    | succ j => exact hbelow (j + 1) a (by omega) le_rfl hleft
  rw [interpolate_eq_interpFrom hl h1 h2, interpFrom_eq_onSegment hb j first rest hleft hright hbelow]
  exact ⟨by omega, toInt_onSegment ha hb⟩

end Sys2Proof.Machine

/-! PROOFS. The mirrored torque table (40 R124): one column of it by index, its order and its oddness. -/

namespace Sys2Proof.Machine

/-- The point at an index stands at that index of both columns (20 R61). -/
theorem tabRead_eq_some_iff {t : Table} {i : Nat} {p : Point} :
    tabRead t i = some p ↔ t.bp[i]? = some p.1 ∧ t.v[i]? = some p.2 := List.getElem?_zip_eq_some

/-! ### A column by index -/

theorem mirrorColumn_length {l : List Fx} (hl : 1 ≤ l.length) : (mirrorColumn l).length = 2 * l.length - 1 := by
  simp only [mirrorColumn, List.length_append, List.length_map, List.length_reverse, List.length_cons, List.length_drop]
  omega

/-- Below its middle a mirrored column is the negated column in reverse. -/
theorem mirrorColumn_getElem?_below {l : List Fx} {i : Nat} (hi : i + 1 < l.length) :
    (mirrorColumn l)[i]? = l[l.length - 1 - i]?.map fxneg := by
  have hlen : i < (l.drop 1).length := by rw [List.length_drop]; omega
  have hindex : 1 + (l.length - 1 - 1 - i) = l.length - 1 - i := by omega
  rw [mirrorColumn, List.getElem?_append_left (by simpa using hlen), List.getElem?_map, List.getElem?_reverse hlen,
    List.getElem?_drop, List.length_drop, hindex]

/-- The middle entry of a mirrored column is 0. -/
theorem mirrorColumn_getElem?_middle (l : List Fx) : (mirrorColumn l)[l.length - 1]? = some 0#32 := by
  rw [mirrorColumn, List.getElem?_append_right (by simp)]
  simp

/-- Above its middle a mirrored column is the column after its first entry. -/
theorem mirrorColumn_getElem?_above (l : List Fx) {i : Nat} (hi : 1 ≤ i) :
    (mirrorColumn l)[l.length - 1 + i]? = l[i]? := by
  obtain ⟨k, rfl⟩ := Nat.exists_eq_add_of_le hi
  rw [mirrorColumn, List.getElem?_append_right (by simp)]
  simp [Nat.add_comm 1 k]

/-! ### Order and oddness -/

/-- A strictly increasing column that starts at 0 is strictly increasing when mirrored. -/
theorem mirrorColumn_pairwise {l : List Fx} (h0 : l.head? = some 0#32) (h : l.Pairwise fun a b => a.toInt < b.toInt) :
    (mirrorColumn l).Pairwise fun a b => a.toInt < b.toInt := by
  obtain ⟨r, rfl⟩ := List.head?_eq_some_iff.1 h0
  obtain ⟨hpos, hr⟩ := List.pairwise_cons.1 h
  rw [BitVec.toInt_zero] at hpos
  have hneg : ∀ x ∈ r, (fxneg x).toInt = -x.toInt := fun x hx =>
    toInt_fxneg_of_lt (lt_trans (by decide) (hpos x hx))
  have hmirrored : (r.reverse.map fxneg).Pairwise fun a b => a.toInt < b.toInt := by
    rw [List.pairwise_map, List.pairwise_reverse]
    refine hr.imp_of_mem fun {a b} ha hb hab => ?_
    rw [hneg a ha, hneg b hb]
    omega
  have hbelowZero : ∀ x ∈ r.reverse.map fxneg, x.toInt < 0 := by
    intro x hx
    obtain ⟨y, hy, rfl⟩ : ∃ y ∈ r, fxneg y = x := by simpa using hx
    have hypos := hpos y hy
    rw [hneg y hy]
    omega
  refine List.pairwise_append.2 ⟨hmirrored, List.pairwise_cons.2 ⟨by simpa using hpos, hr⟩, fun x hx y hy => ?_⟩
  have hxneg := hbelowZero x hx
  rcases List.mem_cons.1 hy with rfl | hy
  · simpa using hxneg
  · exact hxneg.trans (hpos y hy)

/-- In the mirror of a column without `FX_MIN` the entry `k` places before the middle is the negative of the entry `k`
places after it (40 R124). -/
theorem mirrorColumn_opposite {l : List Fx} (h : ∀ x ∈ l, fxMin < x.toInt) {k : Nat} (hk : k < l.length) {x y : Fx}
    (hx : (mirrorColumn l)[l.length - 1 - k]? = some x) (hy : (mirrorColumn l)[l.length - 1 + k]? = some y) :
    x.toInt = -y.toInt := by
  obtain rfl | hk0 := Nat.eq_zero_or_pos k
  · rw [Nat.sub_zero, mirrorColumn_getElem?_middle] at hx
    rw [Nat.add_zero, mirrorColumn_getElem?_middle] at hy
    cases hx
    cases hy
    decide
  · have hindex : l.length - 1 - (l.length - 1 - k) = k := by omega
    rw [mirrorColumn_getElem?_above l hk0] at hy
    rw [mirrorColumn_getElem?_below (by omega), hindex, hy] at hx
    obtain rfl : fxneg y = x := by simpa using hx
    exact toInt_fxneg_of_lt (h y (List.mem_of_getElem? hy))

/-- The mirror of a column without `FX_MIN` is odd about its middle (40 R124). -/
theorem mirrorColumn_odd {l : List Fx} (h : ∀ x ∈ l, fxMin < x.toInt) {i : Nat} (hi : i + 1 < 2 * l.length) {x y : Fx}
    (hx : (mirrorColumn l)[i]? = some x) (hy : (mirrorColumn l)[2 * l.length - 2 - i]? = some y) :
    y.toInt = -x.toInt := by
  rcases Nat.le_total i (l.length - 1) with hle | hle
  · obtain ⟨k, hk⟩ := Nat.exists_eq_add_of_le hle
    have hbelow : i = l.length - 1 - k := by omega
    have habove : 2 * l.length - 2 - i = l.length - 1 + k := by omega
    rw [hbelow] at hx
    rw [habove] at hy
    have := mirrorColumn_opposite h (by omega) hx hy
    omega
  · obtain ⟨k, rfl⟩ := Nat.exists_eq_add_of_le hle
    have hbelow : 2 * l.length - 2 - (l.length - 1 + k) = l.length - 1 - k := by omega
    rw [hbelow] at hy
    exact mirrorColumn_opposite h (by omega) hy hx

/-- Every entry of a strictly increasing column that starts at 0 is at least 0. -/
theorem nonneg_of_increasing_from_zero {l : List Fx} (h0 : l.head? = some 0#32)
    (h : l.Pairwise fun a b => a.toInt < b.toInt) : ∀ x ∈ l, 0 ≤ x.toInt := by
  obtain ⟨r, rfl⟩ := List.head?_eq_some_iff.1 h0
  obtain ⟨hpos, -⟩ := List.pairwise_cons.1 h
  rintro x (_ | ⟨_, hx⟩)
  · simp
  · exact (hpos x hx).le

/-- Settles O54: both columns by index, the order of the breakpoints, and the oddness of both columns. -/
theorem mirrorTableIsOdd : Obligations.MirrorTableIsOdd := by
  intro t ⟨hlen, _, hcols, hinc⟩ hbp0 _
  refine ⟨mirrorColumn_length hlen, ?_, fun i b v hi hb hv => ?_, ?_, fun i p hi hp => ?_,
    mirrorColumn_pairwise hbp0 hinc, fun hv i p q hp hq hi => ?_⟩
  · rw [hcols]
    exact mirrorColumn_length (hcols ▸ hlen)
  · refine tabRead_eq_some_iff.2 ⟨?_, ?_⟩
    · exact (mirrorColumn_getElem?_below hi).trans (by rw [hb]; rfl)
    · rw [hcols] at hi hv
      exact (mirrorColumn_getElem?_below hi).trans (by rw [hv]; rfl)
  · refine tabRead_eq_some_iff.2 ⟨mirrorColumn_getElem?_middle t.bp, ?_⟩
    rw [hcols]
    exact mirrorColumn_getElem?_middle t.v
  · obtain ⟨hpb, hpv⟩ := tabRead_eq_some_iff.1 hp
    refine tabRead_eq_some_iff.2 ⟨(mirrorColumn_getElem?_above t.bp hi).trans hpb, ?_⟩
    rw [hcols]
    exact (mirrorColumn_getElem?_above t.v hi).trans hpv
  · obtain ⟨hpb, hpv⟩ := tabRead_eq_some_iff.1 hp
    obtain ⟨hqb, hqv⟩ := tabRead_eq_some_iff.1 hq
    have hbp : ∀ x ∈ t.bp, fxMin < x.toInt := fun x hx =>
      lt_of_lt_of_le (by decide) (nonneg_of_increasing_from_zero hbp0 hinc x hx)
    refine ⟨mirrorColumn_odd hbp hi hpb hqb, ?_⟩
    rw [hcols] at hi hqv
    exact mirrorColumn_odd hv hi hpv hqv

end Sys2Proof.Machine

/-! PROOFS. What a `STEP` writes under a valid configuration (41 R161 to R163): its next state, by register in terms of
the stages, and its frame. -/

namespace Sys2Proof.Machine

/-- The state a `STEP` ends in under a valid configuration. -/
def afterStep (s : State) : State := complete (runStep (startBatch s))

/-- Under a valid configuration a `STEP` completes (60 R221). -/
theorem exec_step_of_valid {s : State} (hv : calValid s.cal = true) : exec .step s = .next (afterStep s) :=
  runCommand_of_valid runStep hv

/-- A `STEP` writes nothing besides `S.*`, `OUT.*`, `TEL.*` and `STATUS.code` (41 R140). -/
theorem afterStep_effect (s : State) : StepEffect s (afterStep s) :=
  ⟨rfl, rfl, ⟨rfl, rfl, rfl⟩, rfl, rfl, rfl⟩

section Registers

variable (s : State)

theorem afterStep_act : (afterStep s).act = nextActuator (stepLocals s.cal s.inp s.act) s.act := rfl
theorem afterStep_out : (afterStep s).out = stepResults (stepLocals s.cal s.inp s.act) s.act.frame := rfl
theorem afterStep_tel : (afterStep s).tel = stepTelemetry (stepLocals s.cal s.inp s.act) := rfl

theorem stepLocals_drive : (stepLocals s.cal s.inp s.act).drive = stageDrive s.cal (condition s.cal s.inp) := rfl

theorem afterStep_lastTorque :
    (afterStep s).act.lastTorque = stageTorque s.cal (condition s.cal s.inp).tqIn s.act.lastTorque := rfl

theorem afterStep_braking : (afterStep s).act.braking = (tickHysteresis s.cal s.inp s.act).braking := rfl

theorem afterStep_brakeSteady : (afterStep s).act.brakeSteady = (tickHysteresis s.cal s.inp s.act).steady := rfl

theorem afterStep_brakeLast :
    (afterStep s).act.brakeLast = stageBrakeLimit s.cal (tickHysteresis s.cal s.inp s.act).out s.act.brakeLast := by
  rw [afterStep_act]
  rfl

theorem nextActuator_pump (l : StepLocals) (a : ActuatorState) : (nextActuator l a).pump = l.pump := rfl

theorem afterStep_pump :
    (afterStep s).act.pump =
      stageProtection s.cal s.act.frame (afterStep s).act.brakeLast (windOffset s.cal (condition s.cal s.inp).v)
        s.inp.now s.act.pump := by
  rw [afterStep_act, nextActuator_pump]
  rfl

theorem afterStep_speedTarget :
    (afterStep s).out.speedTarget =
      stageSpeedTarget s.cal s.inp.longActive (windOffset s.cal (condition s.cal s.inp).v) (condition s.cal s.inp).v
        (stageDrive s.cal (condition s.cal s.inp)) := rfl

theorem afterStep_accelCode :
    (afterStep s).out.accelCode =
      stageAccelCode s.cal s.inp.longActive (stageDrive s.cal (condition s.cal s.inp)).accel
        (condition s.cal s.inp).v := rfl

theorem afterStep_gearCode : (afterStep s).out.gearCode = gearCode s.cal s.inp.gear := rfl

theorem afterStep_tel_accel : (afterStep s).tel.accel = (stageDrive s.cal (condition s.cal s.inp)).accel := rfl

theorem afterStep_tel_gas : (afterStep s).tel.gas = (stageDrive s.cal (condition s.cal s.inp)).gas := rfl

end Registers

/-- `S.frame` counts modulo 16 (40 R127). -/
theorem toNat_counterNext (n : Count) : (counterNext n).toNat = (n.toNat + 1) % 16 := by
  simp [counterNext, BitVec.toNat_add]

/-- Settles O16: under a valid configuration the next state is `afterStep`, whose registers are those of its locals. -/
theorem stepWritesResults : Obligations.StepWritesResults := by
  intro s hv
  refine ⟨afterStep s, exec_step_of_valid hv, afterStep_effect s, toNat_counterNext s.act.frame, ?_⟩
  rw [afterStep_out, afterStep_tel, afterStep_act]
  exact ⟨rfl, rfl, rfl, rfl, rfl, rfl, rfl, rfl, rfl, rfl, rfl, rfl, rfl, rfl⟩

end Sys2Proof.Machine

/-! PROOFS. The operands of a `STEP` (41 R141), the gear code (41 R155) and stage 1 (41 R142 to R144): the creep term,
the balance and its split. -/

namespace Sys2Proof.Machine

/-! ### The operands -/

/-- Settles O17: each clamp of fx values is the clamp of their integers. -/
theorem inputsAreClamped : Obligations.InputsAreClamped := by
  intro c i
  have hneg : (fxneg fxOne).toInt = -65536 := by decide
  refine ⟨toInt_fxclamp _ _ _, ?_, toInt_fxclamp _ _ _, rfl⟩
  rw [condition, toInt_fxclamp, hneg, toInt_fxOne, clamp]

/-- Settles O29: the index of a gear is its encoding. -/
theorem gearCodeFromTable : Obligations.GearCodeFromTable := by
  intro s hv
  refine ⟨afterStep s, exec_step_of_valid hv, ?_⟩
  rw [afterStep_gearCode]
  cases s.inp.gear <;> rfl

/-! ### The quotient -/

/-- `fxdiv` by a positive divisor (40 R112). -/
theorem toInt_fxdiv_of_pos (a : Fx) {b : Fx} (hb : 0 < b.toInt) :
    (fxdiv a b).toInt = min (max (a.toInt * 65536 / b.toInt) fxMin) fxMax := by
  rw [fxdiv, toInt_sat32, floorDiv_of_pos hb]

/-- A quotient of a value that is not positive is not positive. -/
theorem fxdiv_nonpos {a b : Fx} (ha : a.toInt ≤ 0) (hb : 0 < b.toInt) : (fxdiv a b).toInt ≤ 0 := by
  have hq : a.toInt * 65536 / b.toInt ≤ 0 := Int.ediv_le_of_le_mul hb (by omega)
  rw [toInt_fxdiv_of_pos a hb]
  simp only [fxMin, fxMax]
  omega

/-! ### The creep term -/

/-- Below `CREEP_SPEED` the creep term is a ramp, which no saturation changes (41 R143). -/
theorem toInt_creepTerm_of_lt {c : Calibration} {v : Fx} (hbrake : 0 ≤ c.creepBrake.toInt) (hv : 0 ≤ v.toInt)
    (h : v.toInt < c.creepSpeed.toInt) :
    (creepTerm c v).toInt = c.creepBrake.toInt * (c.creepSpeed.toInt - v.toInt) / c.creepSpeed.toInt ∧
    0 ≤ (creepTerm c v).toInt ∧ (creepTerm c v).toInt ≤ c.creepBrake.toInt := by
  have hpos : 0 < c.creepSpeed.toInt := by omega
  have hshare := floorDiv_share_between c.creepBrake.toInt (u := c.creepSpeed.toInt - v.toInt) (by omega) (by omega)
    hpos
  have hmax := (fx_range c.creepBrake).2
  rw [creepTerm, if_pos h, muldiv, toInt_sat32_of_range (by simp only [fxMin]; omega) (by omega),
    ← floorDiv_of_pos hpos]
  omega

/-- From `CREEP_SPEED` on there is no creep term (41 R143). -/
theorem creepTerm_of_ge {c : Calibration} {v : Fx} (h : c.creepSpeed.toInt ≤ v.toInt) : creepTerm c v = 0#32 :=
  if_neg (Int.not_lt.2 h)

/-! ### The split of the balance -/

theorem stageDrive_of_active (c : Calibration) {x : Conditioned} (h : x.active = true) :
    stageDrive c x =
      { accel := x.aIn
        gas := fxclamp (driveBalance c x.aIn x.v) 0#32 fxOne
        brakeRaw := fxclamp (fxneg (driveBalance c x.aIn x.v)) 0#32 fxOne } := if_pos h

theorem stageDrive_of_inactive (c : Calibration) {x : Conditioned} (h : x.active = false) :
    stageDrive c x = { accel := 0#32, gas := 0#32, brakeRaw := 0#32 } := if_neg (by simp [h])

/-- Clamping to [0, 1.0], as an operation on integers. -/
theorem toInt_fxclamp_unit (x : Fx) : (fxclamp x 0#32 fxOne).toInt = min (max x.toInt 0) 65536 := by
  rw [toInt_fxclamp, toInt_fxOne, BitVec.toInt_zero, clamp]

/-- Clamped to [0, 1.0], a saturated negative is the negative: its saturation lies outside (41 R144). -/
theorem toInt_fxclamp_unit_fxneg (x : Fx) : (fxclamp (fxneg x) 0#32 fxOne).toInt = min (max (-x.toInt) 0) 65536 := by
  rw [toInt_fxclamp_unit, toInt_fxneg]
  simp only [fxMin, fxMax]
  omega

/-- The raw brake lies in [0, 1.0] (41 R144). -/
theorem stageDrive_brakeRaw_range (c : Calibration) (x : Conditioned) :
    0 ≤ (stageDrive c x).brakeRaw.toInt ∧ (stageDrive c x).brakeRaw.toInt ≤ 65536 := by
  cases h : x.active with
  | true =>
    rw [stageDrive_of_active c h, toInt_fxclamp_unit]
    omega
  | false =>
    rw [stageDrive_of_inactive c h]
    decide

/-- Settles O19: the two arms of the creep term, and the balance through the quotient by the positive gain. -/
theorem creepRampAndBalance : Obligations.CreepRampAndBalance := by
  intro c x hv hactive hspeed
  obtain ⟨-, hgain, -, hbrake, -⟩ := scalarsValid_of_calValid hv
  have hrange : 0 ≤ (creepTerm c x.v).toInt ∧ (creepTerm c x.v).toInt ≤ c.creepBrake.toInt := by
    rcases Int.lt_or_le x.v.toInt c.creepSpeed.toInt with h | h
    · exact (toInt_creepTerm_of_lt hbrake hspeed h).2
    · rw [creepTerm_of_ge h, BitVec.toInt_zero]
      exact ⟨le_rfl, hbrake⟩
  refine ⟨by rw [stageDrive_of_active c hactive], fun h => (toInt_creepTerm_of_lt hbrake hspeed h).1, creepTerm_of_ge,
    hrange.1, hrange.2, ?_⟩
  rw [driveBalance, toInt_fxsub, toInt_fxdiv_of_pos _ hgain]

/-- Settles O20: gas and raw brake are the positive and the negative part of the balance, each clamped at 1.0. -/
theorem balanceIsSplit : Obligations.BalanceIsSplit := by
  have hsplit (c : Calibration) {x : Conditioned} (hactive : x.active = true) :
      (stageDrive c x).gas.toInt = min (max (driveBalance c x.aIn x.v).toInt 0) 65536 ∧
      (stageDrive c x).brakeRaw.toInt = min (max (-(driveBalance c x.aIn x.v).toInt) 0) 65536 := by
    rw [stageDrive_of_active c hactive]
    exact ⟨toInt_fxclamp_unit _, toInt_fxclamp_unit_fxneg _⟩
  refine ⟨fun c x hactive => ?_, fun s hv hactive => ?_⟩
  · obtain ⟨hgas, hbrake⟩ := hsplit c hactive
    refine ⟨hgas, hbrake, ?_, ?_⟩
    · rcases Int.le_total (driveBalance c x.aIn x.v).toInt 0 with hneg | hpos
      · exact .inl (fx_ext (by rw [hgas, BitVec.toInt_zero]; omega))
      · exact .inr (fx_ext (by rw [hbrake, BitVec.toInt_zero]; omega))
    · rw [toInt_fxsub, hgas, hbrake]
      simp only [fxMin, fxMax]
      omega
  · obtain ⟨hgas, hbrake⟩ := hsplit s.cal (x := condition s.cal s.inp) hactive
    refine ⟨afterStep s, _, exec_step_of_valid hv, rfl, stepLocals_drive s, ?_, hgas, hbrake⟩
    rw [afterStep_tel_accel, stageDrive_of_active s.cal hactive]

/-- Settles O18: the inactive arms of stages 1, 6 and 7. -/
theorem inactiveForcesZero : Obligations.InactiveForcesZero := by
  intro s hv hinactive
  have hdrive := stageDrive_of_inactive s.cal (x := condition s.cal s.inp) hinactive
  have hspeed : (afterStep s).out.speedTarget = 0#32 := by rw [afterStep_speedTarget, hinactive]; rfl
  refine ⟨afterStep s, exec_step_of_valid hv, ?_, ?_, ?_, hspeed, hspeed, ?_⟩
  · rw [afterStep_tel_accel, hdrive]
  · rw [afterStep_tel_gas, hdrive]
  · rw [stepLocals_drive, hdrive]
  · rw [afterStep_accelCode, hinactive]; rfl

end Sys2Proof.Machine

/-! PROOFS. Stages 2, 3 and 4 (41 R145 to R150): the torque limit, the brake hysteresis and the brake release. -/

namespace Sys2Proof.Machine

/-! ### The torque limit -/

/-- With limits that are not negative, each end of the window saturates on its own side only (40 R122). -/
theorem toInt_rateLimit (target previous : Fx) {down up : Fx} (hdown : 0 ≤ down.toInt) (hup : 0 ≤ up.toInt) :
    (rateLimit target previous down up).toInt =
      min (max target.toInt (max (previous.toInt - down.toInt) fxMin)) (min (previous.toInt + up.toInt) fxMax) := by
  have hprev := fx_range previous
  rw [rateLimit, toInt_fxclamp, toInt_fxsub, toInt_fxadd, clamp]
  omega

/-- Settles O21: the new torque is the clamped request limited to the window about the old torque; the rest is order. -/
theorem stepLimitsTorque : Obligations.StepLimitsTorque := by
  intro s hv
  obtain ⟨-, -, -, -, -, -, hup, hdown, -⟩ := scalarsValid_of_calValid hv
  have hold := fx_range s.act.lastTorque
  obtain ⟨-, hreq, -, -⟩ := inputsAreClamped s.cal s.inp
  have hnew := congrArg BitVec.toInt (afterStep_lastTorque s)
  rw [stageTorque, toInt_rateLimit _ _ hdown hup, hreq] at hnew
  refine ⟨afterStep s, exec_step_of_valid hv, hnew, by omega, by omega, fun hunit => ?_, fun hsame hunit => fx_ext ?_⟩
  · obtain ⟨hlo, hhi⟩ := hunit
    exact ⟨by omega, by omega⟩
  · obtain ⟨hlo, hhi⟩ := hunit
    omega

/-! ### The brake hysteresis -/

/-- When stage 3 forces zero (41 R146). -/
theorem hystForced_iff (c : Calibration) (b : Fx) (braking : Bool) :
    hystForced c b braking = true ↔
      (braking = false ∧ b.toInt ≤ c.hystOn.toInt) ∨ (braking = true ∧ b.toInt < c.hystOff.toInt) := by
  cases braking <;> simp [hystForced]

theorem stageHysteresis_of_forced {c : Calibration} {b : Fx} {braking : Bool} (steady : Fx)
    (h : hystForced c b braking = true) :
    stageHysteresis c b braking steady = { braking := false, steady := 0#32, out := 0#32 } := if_pos h

theorem stageHysteresis_of_not_forced {c : Calibration} {b : Fx} {braking : Bool} (steady : Fx)
    (h : ¬ hystForced c b braking = true) :
    stageHysteresis c b braking steady =
      { braking := true, steady := steadyUpdate c b steady, out := steadyUpdate c b steady } := if_neg h

/-- `hystOut` is the new steady value on both arms (41 R147, R148). -/
theorem stageHysteresis_out (c : Calibration) (b : Fx) (braking : Bool) (steady : Fx) :
    (stageHysteresis c b braking steady).out = (stageHysteresis c b braking steady).steady := by
  by_cases h : hystForced c b braking = true
  · rw [stageHysteresis_of_forced steady h]
  · rw [stageHysteresis_of_not_forced steady h]

/-- The steady update of a raw brake in [0, 1.0] for any steady value: where one of its sums saturates, the exact
comparison comes out the same (41 R148). -/
theorem toInt_steadyUpdate {c : Calibration} (hv : calValid c = true) {b : Fx} (steady : Fx)
    (hb : 0 ≤ b.toInt ∧ b.toInt ≤ 65536) :
    (steadyUpdate c b steady).toInt =
      if steady.toInt + c.hystGap.toInt < b.toInt then b.toInt - c.hystGap.toInt
      else if b.toInt < steady.toInt - c.hystGap.toInt then b.toInt + c.hystGap.toInt
      else steady.toInt := by
  obtain ⟨-, -, hon, hgap, hgapOn⟩ := hystValid_of_calValid hv
  have hsteady := fx_range steady
  have hup : (fxadd steady c.hystGap).toInt < b.toInt ↔ steady.toInt + c.hystGap.toInt < b.toInt := by
    rw [toInt_fxadd]; simp only [fxMin, fxMax] at *; omega
  have hdown : b.toInt < (fxsub steady c.hystGap).toInt ↔ b.toInt < steady.toInt - c.hystGap.toInt := by
    rw [toInt_fxsub]; simp only [fxMin, fxMax] at *; omega
  rw [toInt_fxOne] at hon
  simp only [steadyUpdate, hup, hdown]
  split
  · rw [toInt_fxsub]; simp only [fxMin, fxMax]; omega
  · split
    · rw [toInt_fxadd]; simp only [fxMin, fxMax]; omega
    · rfl

/-- Settles O22: the two arms of stage 3, told apart by `hystForced_iff`. -/
theorem brakeHysteresisLaw : Obligations.BrakeHysteresisLaw := by
  intro s hv
  have hb := stageDrive_brakeRaw_range s.cal (condition s.cal s.inp)
  refine ⟨afterStep s, (stageDrive s.cal (condition s.cal s.inp)).brakeRaw.toInt, exec_step_of_valid hv, rfl,
    fun hforced => ?_, fun hsteady => ?_, stageHysteresis_out s.cal _ _ _⟩
  · rw [afterStep_braking, afterStep_brakeSteady, tickHysteresis,
      stageHysteresis_of_forced _ ((hystForced_iff _ _ _).2 hforced)]
    exact ⟨rfl, rfl⟩
  · have hnot : ¬ hystForced s.cal (stageDrive s.cal (condition s.cal s.inp)).brakeRaw s.act.braking = true := by
      rw [hystForced_iff]
      rcases hsteady with ⟨hclear, h⟩ | ⟨hset, h⟩
      · simp [hclear, h]
      · simp [hset, h]
    rw [afterStep_braking, afterStep_brakeSteady, tickHysteresis, stageHysteresis_of_not_forced _ hnot]
    exact ⟨rfl, toInt_steadyUpdate hv _ hb⟩

/-! ### The brake release -/

/-- From a steady value in [0, 1.0] the hysteresis output lies in [0, 1.0] (10 R41 item 1). -/
theorem stageHysteresis_out_range {c : Calibration} (hv : calValid c = true) {b steady : Fx} (braking : Bool)
    (hb : 0 ≤ b.toInt ∧ b.toInt ≤ 65536) (hs : 0 ≤ steady.toInt ∧ steady.toInt ≤ 65536) :
    0 ≤ (stageHysteresis c b braking steady).out.toInt ∧ (stageHysteresis c b braking steady).out.toInt ≤ 65536 := by
  obtain ⟨-, -, -, hgap, -⟩ := hystValid_of_calValid hv
  by_cases h : hystForced c b braking = true
  · rw [stageHysteresis_of_forced steady h]
    decide
  · rw [stageHysteresis_of_not_forced steady h, toInt_steadyUpdate hv steady hb]
    split_ifs <;> omega

/-- Stage 4 with a release limit that is not negative: only the lower end can saturate (41 R150). -/
theorem toInt_stageBrakeLimit {c : Calibration} (hrel : 0 ≤ c.brakeRel.toInt) (out last : Fx) :
    (stageBrakeLimit c out last).toInt = max out.toInt (max (last.toInt - c.brakeRel.toInt) fxMin) := by
  have hlast := fx_range last
  rw [stageBrakeLimit, toInt_fxmax, toInt_fxsub]
  omega

/-- Settles O24: the greater of the hysteresis output and the released brake; both stay in [0, 1.0]. -/
theorem brakeReleaseIsLimited : Obligations.BrakeReleaseIsLimited := by
  intro s hv
  obtain ⟨-, -, -, -, -, -, -, -, hrel, -⟩ := scalarsValid_of_calValid hv
  have hnew := toInt_stageBrakeLimit hrel (tickHysteresis s.cal s.inp s.act).out s.act.brakeLast
  refine ⟨afterStep s, exec_step_of_valid hv, hnew, fun ⟨hsteady, hlast, _⟩ => ?_⟩
  have hout := stageHysteresis_out_range hv s.act.braking
    (stageDrive_brakeRaw_range s.cal (condition s.cal s.inp)) hsteady
  rw [← tickHysteresis] at hout
  rw [afterStep_brakeLast, hnew]
  simp only [fxMin]
  omega

end Sys2Proof.Machine

/-! PROOFS. Stages 6 and 7 (41 R153, R154): the speed target and the acceleration code. -/

namespace Sys2Proof.Machine

/-! ### The speed target -/

theorem quad_toList {α : Type} (p : Vector α 4) : p.toList = [p[0], p[1], p[2], p[3]] := by
  apply List.ext_getElem (by simp)
  intro i hi _
  have h4 : i < 4 := by simpa using hi
  interval_cases i <;> rfl

/-- The four points of the speed curve, each anchor clamped to [0, 100.0] (41 R153). -/
theorem speedPoints_eq {c : Calibration} {w v : Fx} {p a : Vector Fx 4} (h : (p, a) = speedCurveAt w v c.speedCurve) :
    speedPoints c w v =
      [(p[0], fxclamp a[0] 0#32 fxHundred), (p[1], fxclamp a[1] 0#32 fxHundred),
        (p[2], fxclamp a[2] 0#32 fxHundred), (p[3], fxclamp a[3] 0#32 fxHundred)] := by
  rw [speedPoints, ← h, quad_toList, quad_toList]
  rfl

theorem speedPoints_ne_nil (c : Calibration) (w v : Fx) : speedPoints c w v ≠ [] := by
  rw [speedPoints_eq rfl]
  exact List.cons_ne_nil _ _

/-- The speed target lies in [0, 100.0] whatever the curve (41 R153). -/
theorem stageSpeedTarget_range (c : Calibration) (active : Bool) (w v : Fx) (d : Drive) :
    0 ≤ (stageSpeedTarget c active w v d).toInt ∧ (stageSpeedTarget c active w v d).toInt ≤ 6553600 := by
  cases active with
  | true => exact interpolate_range (speedPoints_ne_nil c w v) fun _ hq => quad_points_range hq
  | false => exact (by decide : 0 ≤ (0#32 : Fx).toInt ∧ (0#32 : Fx).toInt ≤ 6553600)

/-- Settles O27: the lookup among the four clamped points, and the range of a lookup. -/
theorem speedTargetFollowsCurve : Obligations.SpeedTargetFollowsCurve := by
  intro s hv
  have hrange := stageSpeedTarget_range s.cal s.inp.longActive (windOffset s.cal (condition s.cal s.inp).v)
    (condition s.cal s.inp).v (stageDrive s.cal (condition s.cal s.inp))
  refine ⟨afterStep s, windOffset s.cal (condition s.cal s.inp).v, stageDrive s.cal (condition s.cal s.inp), _, _,
    exec_step_of_valid hv, rfl, rfl, rfl, fun hactive => ?_, fun hinactive => ?_, hrange.1, hrange.2⟩
  · rw [afterStep_speedTarget, hactive, stageSpeedTarget, if_pos rfl, speedPoints_eq rfl]
    rfl
  · rw [afterStep_speedTarget, hinactive]
    rfl

/-! ### The acceleration code -/

/-- A 16-bit register holds a value in its range. -/
theorem toNat_ofInt_of_lt {z : Int} (h0 : 0 ≤ z) (h1 : z < 65536) : ((BitVec.ofInt 16 z).toNat : Int) = z := by
  rw [BitVec.toNat_ofInt]
  omega

/-- A lookup in a valid table answers within any bounds on its values (40 R121). -/
theorem interpolate_tablePoints_range {t : Table} (ht : TableValid t) {lo hi : Int}
    (h : ∀ y ∈ t.v, lo ≤ y.toInt ∧ y.toInt ≤ hi) (x : Fx) :
    lo ≤ (interpolate x (tablePoints t)).toInt ∧ (interpolate x (tablePoints t)).toInt ≤ hi := by
  obtain ⟨hlen, -, hcols, -⟩ := ht
  refine interpolate_range (fun hnil => ?_) fun p hp => h p.2 (List.of_mem_zip hp).2
  have hzero := congrArg List.length hnil
  simp only [tablePoints, List.length_zip, List.length_nil] at hzero
  omega

/-- The greatest acceleration is positive at every speed (00 R6). -/
theorem interpolate_maxAcc_pos {c : Calibration} (hv : calValid c = true) (v : Fx) :
    0 < (interpolate v (tablePoints c.maxAcc)).toInt := by
  obtain ⟨-, -, -, -, hmax, -⟩ := tablesValid_of_calValid hv
  exact (interpolate_tablePoints_range hmax (lo := 1) (fun y hy => ⟨maxAcc_pos hv y hy, (fx_range y).2⟩) v).1

/-- The throttle fraction lies in [0, 1.0] (41 R154). -/
theorem throttleFraction_range (c : Calibration) (a v : Fx) :
    0 ≤ (throttleFraction c a v).toInt ∧ (throttleFraction c a v).toInt ≤ 65536 := by
  rw [throttleFraction, toInt_fxclamp_unit]
  omega

/-- An acceleration that is not positive has throttle fraction 0 (41 R154). -/
theorem throttleFraction_of_nonpos {c : Calibration} (hv : calValid c = true) {a : Fx} (v : Fx) (ha : a.toInt ≤ 0) :
    throttleFraction c a v = 0#32 := by
  obtain ⟨-, -, -, -, -, -, -, -, -, hratio, -⟩ := scalarsValid_of_calValid hv
  have hq := fxdiv_nonpos (fxdiv_nonpos ha hratio) (interpolate_maxAcc_pos hv v)
  apply fx_ext
  rw [throttleFraction, toInt_fxclamp_unit, BitVec.toInt_zero]
  omega

/-- The code of a fraction, as a 16-bit register holds it (40 R117). -/
theorem toNat_ofInt_toCode {f : Fx} (m : BitVec 16) (h0 : 0 ≤ f.toInt) (h1 : f.toInt ≤ 65536) :
    ((BitVec.ofInt 16 (toCode f m.toNat)).toNat : Int) = toCode f m.toNat := by
  have hcode := toCode_range m.toNat h0 h1
  exact toNat_ofInt_of_lt hcode.1 (by omega)

/-- Settles O28: the acceleration code is the code of the throttle fraction, whose two quotients have positive
divisors. -/
theorem accelCodeOfAcceleration : Obligations.AccelCodeOfAcceleration := by
  intro s hv
  obtain ⟨-, -, -, -, -, -, -, -, -, hratio, -⟩ := scalarsValid_of_calValid hv
  generalize hx : condition s.cal s.inp = x
  have hm := interpolate_maxAcc_pos hv x.v
  have hfrac := throttleFraction_range s.cal x.aIn x.v
  have hon (hactive : s.inp.longActive = true) :
      (afterStep s).out.accelCode = BitVec.ofInt 16 (toCode (throttleFraction s.cal x.aIn x.v) s.cal.gasMax.toNat) := by
    have hx' : x.active = true := hx ▸ hactive
    rw [afterStep_accelCode, hx, hactive, stageDrive_of_active s.cal hx']
    rfl
  have hoff (hinactive : s.inp.longActive = false) : (afterStep s).out.accelCode = 0#16 := by
    rw [afterStep_accelCode, hinactive]
    rfl
  refine ⟨afterStep s, _, _, exec_step_of_valid hv, rfl, rfl, hm, fun hactive => ?_, fun hactive ha => ?_, hoff, ?_⟩
  · rw [hon hactive, toNat_ofInt_toCode _ hfrac.1 hfrac.2, toCode, floorDiv_of_pos (by decide), throttleFraction,
      toInt_fxclamp_unit, toInt_fxdiv_of_pos _ hm, toInt_fxdiv_of_pos _ hratio]
  · rw [hon hactive, throttleFraction_of_nonpos hv x.v ha, toCode_zero]
    rfl
  · cases hactive : s.inp.longActive with
    | true =>
      have hcode := toNat_ofInt_toCode s.cal.gasMax hfrac.1 hfrac.2
      have hle := (toCode_range s.cal.gasMax.toNat hfrac.1 hfrac.2).2
      rw [hon hactive]
      omega
    | false =>
      rw [hoff hactive]
      exact Nat.zero_le _

end Sys2Proof.Machine

/-! PROOFS. Stage 8 (41 R157 to R160): the brake code and the pump on a protection tick, and the registers that hold on
every other tick. -/

namespace Sys2Proof.Machine

/-! ### Protection ticks -/

theorem protectionTick_iff (n : Count) : protectionTick n = true ↔ n.toNat % 2 = 0 :=
  decide_eq_true_iff

theorem stageProtection_of_protectionTick (c : Calibration) {n : Count} (h : protectionTick n = true) (b w : Fx)
    (now : Time) (p : Pump) : stageProtection c n b w now p = stagePump c (stageBrakeCode c b w) now p := if_pos h

/-- On another tick stage 8 holds its registers (41 R160). -/
theorem stageProtection_of_otherTick (c : Calibration) {n : Count} (h : ¬ protectionTick n = true) (b w : Fx)
    (now : Time) (p : Pump) : stageProtection c n b w now p = p := if_neg h

/-- The registers of stage 8 after a protection tick: the brake code of the new brake fraction, and its pump. -/
theorem afterStep_pump_of_even {s : State} (heven : s.act.frame.toNat % 2 = 0) :
    (afterStep s).act.pump =
      stagePump s.cal
        (stageBrakeCode s.cal (afterStep s).act.brakeLast (windOffset s.cal (condition s.cal s.inp).v))
        s.inp.now s.act.pump := by
  rw [afterStep_pump, stageProtection_of_protectionTick s.cal ((protectionTick_iff _).2 heven)]

/-- The brake code of a protection tick is that of the brake fraction the tick leaves. -/
theorem afterStep_applyBrakeLast_of_even {s : State} (heven : s.act.frame.toNat % 2 = 0) :
    (afterStep s).act.applyBrakeLast =
      stageBrakeCode s.cal (afterStep s).act.brakeLast (windOffset s.cal (condition s.cal s.inp).v) :=
  congrArg Pump.applied (afterStep_pump_of_even heven)

theorem afterStep_lastPumpTimestamp_of_even {s : State} (heven : s.act.frame.toNat % 2 = 0) :
    (afterStep s).act.lastPumpTimestamp =
      pumpTimer s.cal (afterStep s).act.applyBrakeLast s.inp.now s.act.pump := by
  rw [afterStep_applyBrakeLast_of_even heven]
  exact congrArg Pump.timestamp (afterStep_pump_of_even heven)

/-- The pump flag is that of the timer the tick leaves (41 R159). -/
theorem afterStep_pumpOn_of_even {s : State} (heven : s.act.frame.toNat % 2 = 0) :
    (afterStep s).act.pumpOn =
      pumpRuns s.cal (afterStep s).act.applyBrakeLast (elapsed s.inp.now (afterStep s).act.lastPumpTimestamp) := by
  rw [afterStep_lastPumpTimestamp_of_even heven, afterStep_applyBrakeLast_of_even heven]
  exact congrArg Pump.on (afterStep_pump_of_even heven)

/-! ### The brake code -/

/-- The brake code of a net brake of `ab` raw units, on a scale with `top` codes (41 R158). -/
def brakeScale (mode : BrakeScaleMode) (top ab : Int) : Int :=
  match mode with
  | .toMaxMinus1 => ab * (top - 1) / 65536
  | .toMaxThenClip => min (ab * top / 65536) (top - 1)

/-- The net brake 0 has code 0 (41 R158). -/
theorem brakeScale_zero (mode : BrakeScaleMode) {top : Int} (htop : 1 ≤ top) : brakeScale mode top 0 = 0 := by
  cases mode with
  | toMaxMinus1 => simp [brakeScale]
  | toMaxThenClip => simpa [brakeScale] using htop

/-- The net brake 1.0 has the code below the top one (41 R158). -/
theorem brakeScale_one (mode : BrakeScaleMode) (top : Int) : brakeScale mode top 65536 = top - 1 := by
  cases mode with
  | toMaxMinus1 => exact Int.mul_ediv_cancel_left _ (by decide)
  | toMaxThenClip =>
    have hq : 65536 * top / 65536 = top := Int.mul_ediv_cancel_left _ (by decide)
    rw [brakeScale, hq]
    omega

/-- The brake codes range from 0 to the code below the top one (41 R158). -/
theorem brakeScale_range (mode : BrakeScaleMode) {top ab : Int} (htop : 1 ≤ top) (h0 : 0 ≤ ab) (h1 : ab ≤ 65536) :
    0 ≤ brakeScale mode top ab ∧ brakeScale mode top ab ≤ top - 1 := by
  cases mode with
  | toMaxMinus1 =>
    refine ⟨Int.ediv_nonneg (Int.mul_nonneg h0 (by omega)) (by decide), Int.ediv_le_of_le_mul (by decide) ?_⟩
    rw [Int.mul_comm]
    exact Int.mul_le_mul_of_nonneg_left h1 (by omega)
  | toMaxThenClip =>
    have hq : 0 ≤ ab * top / 65536 := Int.ediv_nonneg (Int.mul_nonneg h0 (by omega)) (by decide)
    rw [brakeScale]
    omega

/-- The net brake of stage 8 in raw units: the brake fraction less the wind offset, clamped to [0, 1.0] (41 R158). -/
def netBrake (b w : Fx) : Int := min (max (b.toInt - w.toInt) 0) 65536

theorem netBrake_range (b w : Fx) : 0 ≤ netBrake b w ∧ netBrake b w ≤ 65536 := by
  unfold netBrake; omega

/-- The saturated difference clamps as the exact one does (41 R158). -/
theorem toInt_fxclamp_unit_fxsub (b w : Fx) : (fxclamp (fxsub b w) 0#32 fxOne).toInt = netBrake b w := by
  rw [toInt_fxclamp_unit, toInt_fxsub, netBrake]
  simp only [fxMin, fxMax]
  omega

/-- Stage 8 takes the code of the net brake on its scale (41 R158). -/
theorem stageBrakeCode_eq {c : Calibration} (htop : 1 ≤ c.brakeMax.toNat) (b w : Fx) :
    stageBrakeCode c b w = BitVec.ofInt 16 (brakeScale c.brakeScaleMode c.brakeMax.toNat (netBrake b w)) := by
  have hdiv (z : Int) : floorDiv z 65536 = z / 65536 := floorDiv_of_pos (by decide)
  rw [stageBrakeCode]
  cases c.brakeScaleMode with
  | toMaxMinus1 => simp only [brakeScale, toCode, toInt_fxclamp_unit_fxsub, hdiv, Nat.cast_sub htop, Nat.cast_one]
  | toMaxThenClip => simp only [brakeScale, toCode, toInt_fxclamp_unit_fxsub, hdiv]

/-- The brake code fits its register, and the top code is never reached (41 R158). -/
theorem toNat_stageBrakeCode {c : Calibration} (htop : 1 ≤ c.brakeMax.toNat) (b w : Fx) :
    ((stageBrakeCode c b w).toNat : Int) = brakeScale c.brakeScaleMode c.brakeMax.toNat (netBrake b w) ∧
    (stageBrakeCode c b w).toNat ≤ c.brakeMax.toNat - 1 := by
  obtain ⟨hnet0, hnet1⟩ := netBrake_range b w
  have hrange := brakeScale_range c.brakeScaleMode (top := c.brakeMax.toNat) (by omega) hnet0 hnet1
  have hcode := toNat_ofInt_of_lt hrange.1 (by omega)
  rw [← stageBrakeCode_eq htop] at hcode
  exact ⟨hcode, by omega⟩

/-- Settles O30: the brake code is `brakeScale` of the net brake, whose end points and range are known. -/
theorem brakeCodeOnProtectionTick : Obligations.BrakeCodeOnProtectionTick := by
  intro s hv heven
  obtain ⟨-, -, -, -, -, -, -, -, -, -, htop, -⟩ := scalarsValid_of_calValid hv
  have hcode := toNat_stageBrakeCode htop (afterStep s).act.brakeLast (windOffset s.cal (condition s.cal s.inp).v)
  rw [← afterStep_applyBrakeLast_of_even heven] at hcode
  obtain ⟨hvalue, hle⟩ := hcode
  refine ⟨afterStep s, _, netBrake (afterStep s).act.brakeLast (windOffset s.cal (condition s.cal s.inp).v),
    exec_step_of_valid hv, rfl, rfl, hvalue, fun hzero => ?_, fun hone => ?_, hle⟩
  · rw [hzero, brakeScale_zero _ (by omega)] at hvalue
    exact BitVec.eq_of_toNat_eq (by simpa using hvalue)
  · rw [hone, brakeScale_one] at hvalue
    omega

/-! ### The pump -/

/-- Elapsed time counts modulo 2^32 (10 R33). -/
theorem toNat_elapsed (later earlier : Time) :
    (elapsed later earlier).toNat = (later.toNat + 2 ^ 32 - earlier.toNat) % 2 ^ 32 := by
  have hlt := earlier.isLt
  rw [elapsed, BitVec.toNat_sub]
  omega

/-- When the pump timer is reset (41 R159). -/
theorem pumpTimerResets_iff (c : Calibration) (code applied : BitVec 16) (since : Time) :
    pumpTimerResets c code applied since = true ↔
      applied.toNat < code.toNat ∨ (c.pumpMaxInterval.toNat < since.toNat ∧ 0 < code.toNat) := by
  simp [pumpTimerResets]

/-- When the pump is reported on (41 R159). -/
theorem pumpRuns_iff (c : Calibration) (code : BitVec 16) (since : Time) :
    pumpRuns c code since = true ↔ 0 < code.toNat ∧ since.toNat < c.pumpMinRun.toNat := by
  simp [pumpRuns]

/-- Settles O31: the timer by `pumpTimerResets_iff`, the flag by `pumpRuns_iff` with the timer just written. -/
theorem pumpHysteresisLaw : Obligations.PumpHysteresisLaw := by
  intro s hv heven
  refine ⟨afterStep s, _, exec_step_of_valid hv, rfl, ?_, ?_⟩
  · rw [afterStep_lastPumpTimestamp_of_even heven, pumpTimer, ← toNat_elapsed]
    exact if_congr (pumpTimerResets_iff _ _ _ _) rfl rfl
  · rw [afterStep_pumpOn_of_even heven, pumpRuns_iff, toNat_elapsed]

/-! ### The other ticks -/

/-- Only stage 8 on a protection tick reads the time (41 R160). -/
theorem stepLocals_now_of_otherTick (c : Calibration) (i : Operands) {a : ActuatorState}
    (h : ¬ protectionTick a.frame = true) (n : Time) :
    stepLocals c { i with now := n } a = stepLocals c i a := by
  rw [stepLocals, stepLocals, stageProtection_of_otherTick c h, stageProtection_of_otherTick c h]
  rfl

/-- On another tick a `STEP` does the same whatever the time is (41 R160). -/
theorem afterStep_now_of_otherTick {s : State} (h : ¬ protectionTick s.act.frame = true) (n : Time) :
    afterStep { s with inp := { s.inp with now := n } } =
      { afterStep s with inp := { (afterStep s).inp with now := n } } := by
  simp only [afterStep, runStep, startBatch, complete, stepLocals_now_of_otherTick s.cal s.inp h n]

/-- Settles O32: on another tick stage 8 is the identity and the time is not read. -/
theorem protectionHeldOnOtherTicks : Obligations.ProtectionHeldOnOtherTicks := by
  intro s hv hodd
  have htick : ¬ protectionTick s.act.frame = true := by rw [protectionTick_iff]; omega
  have hpump : (afterStep s).act.pump = s.act.pump :=
    (afterStep_pump s).trans (stageProtection_of_otherTick s.cal htick _ _ _ _)
  have hcode : (afterStep s).act.applyBrakeLast = s.act.applyBrakeLast := congrArg Pump.applied hpump
  have hon : (afterStep s).act.pumpOn = s.act.pumpOn := congrArg Pump.on hpump
  refine ⟨afterStep s, exec_step_of_valid hv, hcode, congrArg Pump.timestamp hpump, hon, hcode, hon, rfl, fun n => ?_⟩
  rw [exec_step_of_valid (s := { s with inp := { s.inp with now := n } }) hv, afterStep_now_of_otherTick htick n]

end Sys2Proof.Machine

/-! PROOFS. A payload as a list of field writes (42 R181): what pairwise disjoint writes leave in each field, the writes
of a frame and the ranges they use. -/

namespace Sys2Proof.Machine

/-! ### Fields of a payload -/

/-- The number in a bit range of a payload (20 R64). -/
def payloadField (p : Payload) (r : BitRange) : Nat := p.toNat / 2 ^ r.1 % 2 ^ r.2

theorem testBit_payloadField (p : Payload) (r : BitRange) (j : Nat) :
    (payloadField p r).testBit j = (decide (j < r.2) && p.getLsbD (j + r.1)) := by
  rw [payloadField, Nat.testBit_mod_two_pow, Nat.testBit_div_two_pow, BitVec.testBit_toNat]

/-- A field that lies in the bytes of a frame is read from its frame as from its payload (20 R64, R66). -/
theorem fieldAt_encodedFrame {h : MsgHeader} {r : BitRange} (slots : List Slot) (c : Count)
    (hfit : r.1 + r.2 ≤ 8 * h.len) :
    fieldAt (encodedFrame h slots c) r.1 r.2 = payloadField (encodePayload h slots c) r := by
  rw [fieldAt, encodedFrame, payloadNumber_payloadBytes]
  apply Nat.eq_of_testBit_eq
  intro j
  rw [testBit_payloadField, Nat.testBit_mod_two_pow, Nat.testBit_div_two_pow, Nat.testBit_mod_two_pow,
    BitVec.testBit_toNat]
  by_cases hj : j < r.2
  · have hin : j + r.1 < 8 * h.len := by omega
    simp [hin]
  · simp [hj]

/-! ### Sequences of field writes -/

/-- A field to write, with its value. -/
abbrev FieldWrite := BitRange × Int

/-- One write of a field (20 R65). -/
def writeField (p : Payload) (w : FieldWrite) : Payload := payloadInsert p w.1.1 w.1.2 w.2

theorem payloadField_writeField_same (p : Payload) {w : FieldWrite} (hfit : w.1.1 + w.1.2 ≤ 64) :
    payloadField (writeField p w) w.1 = (w.2 % 2 ^ w.1.2).toNat := payloadInsert_field p w.2 hfit

theorem payloadField_writeField_disjoint (p : Payload) {r : BitRange} {w : FieldWrite} (hr : RangesDisjoint r w.1) :
    payloadField (writeField p w) r = payloadField p r := by
  apply Nat.eq_of_testBit_eq
  intro j
  rw [testBit_payloadField, testBit_payloadField]
  by_cases hj : j < r.2
  · rw [writeField, payloadInsert_frame p w.2 (by omega)]
  · simp [hj]

/-- Writes elsewhere leave a field as it is. -/
theorem payloadField_foldl_disjoint {r : BitRange} {l : List FieldWrite} (p : Payload)
    (hr : ∀ w ∈ l, RangesDisjoint r w.1) : payloadField (l.foldl writeField p) r = payloadField p r := by
  induction l generalizing p with
  | nil => rfl
  | cons w rest ih =>
    obtain ⟨hw, hrest⟩ := List.forall_mem_cons.1 hr
    rw [List.foldl_cons, ih _ hrest, payloadField_writeField_disjoint p hw]

/-- After writes of pairwise disjoint fields every field holds what was written to it. -/
theorem payloadField_foldl_of_mem {l : List FieldWrite} {w : FieldWrite} (p : Payload)
    (hdisj : (l.map Prod.fst).Pairwise RangesDisjoint) (hfit : ∀ r ∈ l.map Prod.fst, r.1 + r.2 ≤ 64) (hw : w ∈ l) :
    payloadField (l.foldl writeField p) w.1 = (w.2 % 2 ^ w.1.2).toNat := by
  induction l generalizing p with
  | nil => cases hw
  | cons a rest ih =>
    rw [List.map_cons] at hdisj hfit
    obtain ⟨hhead, hdisj⟩ := List.pairwise_cons.1 hdisj
    obtain ⟨hfitHead, hfit⟩ := List.forall_mem_cons.1 hfit
    rw [List.foldl_cons]
    rcases List.mem_cons.1 hw with rfl | hw
    · rw [payloadField_foldl_disjoint _ fun v hv => hhead v.1 (List.mem_map_of_mem hv)]
      exact payloadField_writeField_same p hfitHead
    · exact ih _ hdisj hfit hw

/-! ### The writes of a frame -/

/-- The write of one slot (30 R91). -/
def slotWrite (k : Slot) : FieldWrite :=
  ((k.1.offset, k.1.width), satField (quant k.2 k.1.scale) k.1.width k.1.signed)

/-- The writes of the present slots, in slot order (42 R181, R182). -/
def signalWrites (slots : List Slot) : List FieldWrite := (slots.filter (·.1.present)).map slotWrite

/-- The write of the counter field (42 R188). -/
def counterWrites (h : MsgHeader) (c : Count) : List FieldWrite :=
  if h.hasCnt then [((h.cntOffset, 4), c.toNat)] else []

/-- The write of the checksum byte over the payload built so far (42 R189). -/
def checksumWrites (h : MsgHeader) (p : Payload) : List FieldWrite :=
  if h.hasCsum then [((8 * (h.len - 1), 8), (xorChecksum (payloadBytes p (h.len - 1))).toNat)] else []

/-- Every write of an encode, in order (42 R181). -/
def frameWrites (h : MsgHeader) (slots : List Slot) (c : Count) : List FieldWrite :=
  signalWrites slots ++ counterWrites h c ++ checksumWrites h (insertCounter h c (packSlots slots))

theorem packSlots_eq_foldl (slots : List Slot) : packSlots slots = (signalWrites slots).foldl writeField 0#64 := by
  rw [signalWrites, List.foldl_map, List.foldl_filter]
  rfl

theorem insertCounter_eq_foldl (h : MsgHeader) (c : Count) (p : Payload) :
    insertCounter h c p = (counterWrites h c).foldl writeField p := by
  unfold insertCounter counterWrites
  split <;> rfl

theorem insertChecksum_eq_foldl (h : MsgHeader) (p : Payload) :
    insertChecksum h p = (checksumWrites h p).foldl writeField p := by
  unfold insertChecksum checksumWrites
  split <;> rfl

/-- An encode makes its writes one after the other (42 R181). -/
theorem encodePayload_eq_foldl (h : MsgHeader) (slots : List Slot) (c : Count) :
    encodePayload h slots c = (frameWrites h slots c).foldl writeField 0#64 := by
  rw [encodePayload, insertChecksum_eq_foldl, frameWrites, List.foldl_append, List.foldl_append, ← packSlots_eq_foldl,
    ← insertCounter_eq_foldl]

/-- An encode writes the ranges of its message that 30 R89 item 6 keeps apart. -/
theorem frameWrites_ranges (h : MsgHeader) (slots : List Slot) (c : Count) :
    (frameWrites h slots c).map Prod.fst = usedRanges h (slots.map Prod.fst) := by
  have hsig : (signalWrites slots).map Prod.fst =
      ((slots.map Prod.fst).filter (·.present)).map fun d => (d.offset, d.width) := by
    rw [signalWrites, List.filter_map, List.map_map, List.map_map]
    rfl
  have hcnt : (counterWrites h c).map Prod.fst = if h.hasCnt then [(h.cntOffset, 4)] else [] := by
    unfold counterWrites
    split <;> rfl
  have hcsum (p : Payload) :
      (checksumWrites h p).map Prod.fst = if h.hasCsum then [(8 * (h.len - 1), 8)] else [] := by
    unfold checksumWrites
    split <;> rfl
  rw [frameWrites, List.map_append, List.map_append, hsig, hcnt, hcsum, usedRanges]

/-- The ranges of a valid message lie in its bytes (30 R89 items 3 to 5). -/
theorem usedRanges_fit {h : MsgHeader} {ds : List Descriptor} (hm : MessageValid h ds) :
    ∀ r ∈ usedRanges h ds, r.1 + r.2 ≤ 8 * h.len := by
  obtain ⟨-, -, hslots, hcnt, hcsum, -⟩ := hm
  intro r hr
  rcases List.mem_append.1 hr with hr | hr
  · rcases List.mem_append.1 hr with hr | hr
    · obtain ⟨d, hd, rfl⟩ := List.mem_map.1 hr
      obtain ⟨hmem, hpresent⟩ := List.mem_filter.1 hd
      obtain ⟨-, -, hfit, -⟩ := hslots d hmem hpresent
      exact hfit
    · rw [List.mem_ite_nil_right, List.mem_singleton] at hr
      obtain ⟨hon, rfl⟩ := hr
      exact hcnt hon
  · rw [List.mem_ite_nil_right, List.mem_singleton] at hr
    obtain ⟨hon, rfl⟩ := hr
    have hlen := hcsum hon
    change 8 * (h.len - 1) + 8 ≤ 8 * h.len
    omega

/-! ### What a frame holds -/

/-- In the frame of a valid message every field holds what the encode wrote to it (42 R181, 30 R89). -/
theorem fieldAt_encodedFrame_of_mem {h : MsgHeader} {slots : List Slot} {c : Count} {w : FieldWrite}
    (hm : MessageValid h (slots.map Prod.fst)) (hw : w ∈ frameWrites h slots c) :
    (fieldAt (encodedFrame h slots c) w.1.1 w.1.2 : Int) = w.2 % 2 ^ w.1.2 := by
  have hfit := usedRanges_fit hm
  obtain ⟨⟨-, hlen⟩, -, -, -, -, hdisj⟩ := hm
  rw [← frameWrites_ranges h slots c] at hfit hdisj
  have hfit64 (r : BitRange) (hr : r ∈ (frameWrites h slots c).map Prod.fst) : r.1 + r.2 ≤ 64 := by
    have hbytes := hfit r hr
    omega
  rw [fieldAt_encodedFrame slots c (hfit w.1 (List.mem_map_of_mem hw)), encodePayload_eq_foldl,
    payloadField_foldl_of_mem _ hdisj hfit64 hw]
  exact Int.toNat_of_nonneg (Int.emod_nonneg _ (by positivity))

/-- The frame of a valid message holds each of its slots (42 R181). -/
theorem slotHolds_encodedFrame {h : MsgHeader} {slots : List Slot} (c : Count)
    (hm : MessageValid h (slots.map Prod.fst)) {k : Slot} (hk : k ∈ slots) :
    SlotHolds (encodedFrame h slots c) k.1 k.2 := by
  intro hpresent
  have hw : slotWrite k ∈ signalWrites slots := List.mem_map_of_mem (List.mem_filter.2 ⟨hk, hpresent⟩)
  exact fieldAt_encodedFrame_of_mem (w := slotWrite k) hm (List.mem_append_left _ (List.mem_append_left _ hw))

/-- The frame of a valid message with a counter holds the count it was built from (42 R188). -/
theorem fieldAt_encodedFrame_counter {h : MsgHeader} {slots : List Slot} (c : Count)
    (hm : MessageValid h (slots.map Prod.fst)) (hcnt : h.hasCnt = true) :
    fieldAt (encodedFrame h slots c) h.cntOffset 4 = c.toNat := by
  have hw : ((h.cntOffset, 4), (c.toNat : Int)) ∈ counterWrites h c := by
    rw [counterWrites, if_pos hcnt]
    exact List.mem_singleton_self _
  have hfield := fieldAt_encodedFrame_of_mem hm (List.mem_append_left _ (List.mem_append_right _ hw))
  have hlt := c.isLt
  dsimp only at hfield
  omega

/-- A frame carries the identity of its message (30 R90). -/
theorem frameOf_encodedFrame (h : MsgHeader) (slots : List Slot) (c : Count) : FrameOf h (encodedFrame h slots c) :=
  ⟨rfl, rfl, rfl, payloadBytes_length _ _⟩

/-! ### The checksum byte -/

/-- A byte written whole is read back. -/
theorem payloadByte_payloadInsert_same (p : Payload) {k : Nat} (hk : k < 8) (b : Byte) :
    payloadByte (payloadInsert p (8 * k) 8 b.toNat) k = b := by
  have hfield := payloadInsert_field p (off := 8 * k) (w := 8) b.toNat (by omega)
  have hlt := b.isLt
  apply BitVec.eq_of_toNat_eq
  rw [payloadByte, BitVec.extractLsb'_toNat, Nat.shiftRight_eq_div_pow, hfield]
  change ((b.toNat : Int) % 2 ^ 8).toNat = b.toNat
  omega

/-- A write at byte `n` or above leaves the first `n` bytes as they are. -/
theorem payloadBytes_payloadInsert (p : Payload) (n w : Nat) (q : Int) :
    payloadBytes (payloadInsert p (8 * n) w q) n = payloadBytes p n := by
  apply List.map_congr_left
  intro k hk
  have hlt := List.mem_range.1 hk
  apply BitVec.eq_of_getLsbD_eq
  intro i hi
  rw [payloadByte, payloadByte, BitVec.getLsbD_extractLsb', BitVec.getLsbD_extractLsb',
    payloadInsert_frame p q (by omega)]

/-- The bytes of a payload of `n + 1` bytes after its checksum is written: the bytes below, then their checksum
(42 R189). -/
theorem payloadBytes_insertChecksum {h : MsgHeader} (p : Payload) {n : Nat} (hcsum : h.hasCsum = true)
    (hlen : h.len = n + 1) (hn : n < 8) :
    payloadBytes (insertChecksum h p) (n + 1) = payloadBytes p n ++ [xorChecksum (payloadBytes p n)] := by
  rw [insertChecksum, if_pos hcsum, hlen, Nat.add_sub_cancel, payloadBytes_succ, payloadBytes_payloadInsert,
    payloadByte_payloadInsert_same p hn]

/-- The last byte of the frame of a valid message with a checksum (42 R189). -/
theorem getLast?_encodedFrame_payload {h : MsgHeader} {ds : List Descriptor} (slots : List Slot) (c : Count)
    (hm : MessageValid h ds) (hcsum : h.hasCsum = true) :
    (encodedFrame h slots c).payload.getLast? = some (xorChecksum (encodedFrame h slots c).payload.dropLast) := by
  obtain ⟨⟨hlo, hhi⟩, -⟩ := hm
  obtain ⟨n, hn⟩ := Nat.exists_eq_add_of_le' hlo
  have hbytes := payloadBytes_insertChecksum (insertCounter h c (packSlots slots)) hcsum hn (by omega)
  rw [← hn] at hbytes
  rw [encodedFrame, encodePayload, hbytes, List.getLast?_append_of_ne_nil _ (by simp), List.dropLast_concat]
  rfl

end Sys2Proof.Machine

/-! PROOFS. The five `ENC.*` commands (42 R183 to R189): the slots of each, the one next state of all, and what its
frame carries. -/

namespace Sys2Proof.Machine

/-! ### One encode -/

/-- The state a completed encode ends in. -/
def afterEncode (m : MsgIndex) (h : MsgHeader) (slots : List Slot) (s : State) : State :=
  complete (encodeMessage m h slots (startBatch s))

theorem afterEncode_batch (m : MsgIndex) (h : MsgHeader) (slots : List Slot) (s : State) :
    (afterEncode m h slots s).batch = [encodedFrame h slots s.rc[m]] := rfl

theorem afterEncode_rc (m : MsgIndex) (h : MsgHeader) (slots : List Slot) (s : State) :
    (afterEncode m h slots s).rc = if h.hasCnt then s.rc.set m (counterNext s.rc[m]) else s.rc := rfl

/-- An encode writes nothing besides its counter, its frame and `STATUS.code` (42 R180, R188). -/
theorem afterEncode_effect (m : MsgIndex) (h : MsgHeader) (slots : List Slot) (s : State) :
    EncodeEffect s (afterEncode m h slots s) m h := by
  refine ⟨rfl, rfl, rfl, ⟨rfl, rfl, rfl⟩, ⟨rfl, rfl, rfl⟩, ?_, fun j hj => ?_⟩
  · rw [afterEncode_rc]
    cases h.hasCnt with
    | true => simp [toNat_counterNext]
    | false => simp
  · have hne : m.val ≠ j.val := fun hval => hj (Fin.ext hval.symm)
    rw [afterEncode_rc]
    cases h.hasCnt with
    | true => simp [hne]
    | false => simp

/-! ### The encode commands -/

/-- The slots a command encodes, with their numerators; none for a command that is no encode or whose message is not
configured (42 R183 to R187). -/
def commandSlots (s : State) : Instr → List Slot
  | .step => []
  | .encSteer => steerSlots s.cal s.inp s.out
  | .encLong => longSlots s.cal s.inp s.out
  | .encBrake => brakeSlots s.cal s.inp s.out
  | .encPark => parkSlots s.cal s.inp
  | .encState k => ((s.cal.msg.state[k]?).map fun msg => stateSlots msg s.inp k).getD []
  | .tick => []

theorem stateSlots_descriptors (msg : StateMsg) (i : Operands) (k : Nat) :
    (stateSlots msg i k).map Prod.fst = stateDescriptors msg := by
  rw [stateSlots, stateDescriptors, List.map_fst_zip (by simp)]

/-- An encode command under a valid configuration: its message is one of the table (30 R84), its slots have the
descriptors of that message, and it ends in the state of that encode. -/
theorem exec_of_encodedMessage {s : State} {i : Instr} {m : MsgIndex} {h : MsgHeader} {ds : List Descriptor}
    (hv : calValid s.cal = true) (hi : encodedMessage s.cal i = some (m, h, ds)) :
    (h, ds) ∈ messages s.cal.msg ∧ (commandSlots s i).map Prod.fst = ds ∧
      exec i s = .next (afterEncode m h (commandSlots s i) s) := by
  cases i with
  | step => cases hi
  | tick => cases hi
  | encState k =>
    obtain ⟨msg, hk, hmsg⟩ := Option.map_eq_some_iff.1 hi
    cases hmsg
    have hslots : commandSlots s (.encState k) = stateSlots msg s.inp k := by simp [commandSlots, hk]
    have hmem : (msg.hdr, stateDescriptors msg) ∈ s.cal.msg.state.map fun m => (m.hdr, stateDescriptors m) :=
      List.mem_map_of_mem (List.mem_of_getElem? hk)
    refine ⟨by simp only [messages, List.mem_cons, hmem, or_true], ?_, ?_⟩
    · rw [hslots, stateSlots_descriptors]
    · rw [hslots, exec, execEncState_of_configured hk, runCommand_of_valid _ hv]
      rfl
  | _ =>
    cases hi
    exact ⟨by simp [messages], rfl, runCommand_of_valid _ hv⟩

/-- Every encode of a configured message, in one statement: the one frame of the command and its identity, what else it
writes, and what the frame holds (42 R180 to R189). -/
theorem encode_completes {s : State} {i : Instr} {m : MsgIndex} {h : MsgHeader} {ds : List Descriptor}
    (hv : calValid s.cal = true) (hi : encodedMessage s.cal i = some (m, h, ds)) :
    ∃ t f, exec i s = .next t ∧ t.batch = [f] ∧ FrameOf h f ∧ EncodeEffect s t m h ∧
      (∀ k ∈ commandSlots s i, SlotHolds f k.1 k.2) ∧
      (h.hasCnt = true → fieldAt f h.cntOffset 4 = (s.rc[m]).toNat) ∧
      (h.hasCsum = true → f.payload.getLast? = some (xorChecksum f.payload.dropLast)) := by
  obtain ⟨hmem, hds, hexec⟩ := exec_of_encodedMessage hv hi
  obtain ⟨-, hvalid, -⟩ := layoutValid_of_calValid hv
  have hm : MessageValid h ((commandSlots s i).map Prod.fst) := hds ▸ hvalid (h, ds) hmem
  exact ⟨_, _, hexec, afterEncode_batch _ _ _ _, frameOf_encodedFrame _ _ _, afterEncode_effect _ _ _ _,
    fun _ hk => slotHolds_encodedFrame _ hm hk, fieldAt_encodedFrame_counter _ hm,
    getLast?_encodedFrame_payload _ _ hm⟩

/-! ### The values of the slots -/

theorem steerNumerator_of_torque {c : Calibration} (h : c.steerValueSrc = .torque) (i : Operands) (o : Results) :
    steerNumerator c i o = o.torqueCode.toInt * 65536 := by
  rw [steerNumerator, h]
  rfl

/-- The negated angle saturates at its upper end only (42 R193). -/
theorem steerNumerator_of_angle {c : Calibration} (h : c.steerValueSrc = .angle) (i : Operands) (o : Results) :
    steerNumerator c i o = min (-i.angleCmd.toInt) fxMax := by
  have hrange := fx_range i.angleCmd
  rw [steerNumerator, h]
  change (fxneg i.angleCmd).toInt = _
  rw [toInt_fxneg]
  simp only [fxMin, fxMax] at hrange ⊢
  omega

/-- The speed in wire units, whose divisor is positive under a valid configuration (42 R194). -/
theorem speedNumerator_of_valid {c : Calibration} (hv : calValid c = true) (o : Results) :
    speedNumerator c o = o.speedTarget.toInt * c.speedUnitNum / c.speedUnitDen := by
  obtain ⟨-, -, -, -, -, -, -, -, -, -, -, -, hden⟩ := scalarsValid_of_calValid hv
  exact floorDiv_of_pos (by omega)

/-- Settles O34: the frame holds the slots of `steerSlots`, the value by its source. -/
theorem steerFrameHoldsItsSlots : Obligations.SteerFrameHoldsItsSlots := by
  intro s hv
  obtain ⟨t, f, hexec, hbatch, hframe, heffect, hslots, -⟩ := encode_completes (i := .encSteer) hv rfl
  simp only [commandSlots, steerSlots, List.forall_mem_cons] at hslots
  obtain ⟨hactive, hmode, hvalue, -⟩ := hslots
  refine ⟨t, f, hexec, hbatch, hframe, heffect, hactive, hmode, ?_⟩
  cases hsrc : s.cal.steerValueSrc with
  | torque => rwa [steerNumerator_of_torque hsrc] at hvalue
  | angle => rwa [steerNumerator_of_angle hsrc] at hvalue

/-- Settles O35: the frame holds the slots of `longSlots`. -/
theorem longFrameHoldsItsSlots : Obligations.LongFrameHoldsItsSlots := by
  intro s hv
  obtain ⟨t, f, hexec, hbatch, hframe, heffect, hslots, -⟩ := encode_completes (i := .encLong) hv rfl
  simp only [commandSlots, longSlots, List.forall_mem_cons, speedNumerator_of_valid hv] at hslots
  obtain ⟨hactive, hmode, hgear, hspeed, hlimit, haccel, -⟩ := hslots
  exact ⟨t, f, hexec, hbatch, hframe, heffect, hactive, hmode, hgear, hspeed, hlimit, haccel⟩

/-- Settles O36: the frame holds the slots of `brakeSlots`. -/
theorem brakeFrameHoldsItsSlots : Obligations.BrakeFrameHoldsItsSlots := by
  intro s hv
  obtain ⟨t, f, hexec, hbatch, hframe, heffect, hslots, -⟩ := encode_completes (i := .encBrake) hv rfl
  simp only [commandSlots, brakeSlots, List.forall_mem_cons] at hslots
  obtain ⟨hactive, hmode, hvalue, hpump, -⟩ := hslots
  exact ⟨t, f, hexec, hbatch, hframe, heffect, hactive, hmode, hvalue, hpump⟩

/-- Settles O37: the frame holds the slots of `parkSlots`. -/
theorem parkFrameHoldsItsSlots : Obligations.ParkFrameHoldsItsSlots := by
  intro s hv
  obtain ⟨t, f, hexec, hbatch, hframe, heffect, hslots, -⟩ := encode_completes (i := .encPark) hv rfl
  simp only [commandSlots, parkSlots, List.forall_mem_cons] at hslots
  obtain ⟨hactive, henable, -⟩ := hslots
  exact ⟨t, f, hexec, hbatch, hframe, heffect, hactive, henable⟩

/-! ### The counter and the checksum -/

/-- A command that does not complete has raised an error, which is all it does (60 R224). -/
theorem exec_eq_raise_of_code_ne_ok {i : Instr} {s t : State} (h : exec i s = .next t) (hne : t.status.code ≠ .ok) :
    ∃ e, t = raise e s := by
  cases hv : calValid s.cal with
  | false =>
    rw [exec_of_fault i hv, Host.Outcome.next.injEq] at h
    exact ⟨_, h.symm⟩
  | true =>
    rcases exec_cases hv h with ⟨-, rfl⟩ | ⟨-, rfl⟩ | ⟨-, rfl⟩ | ⟨-, rfl⟩ | ⟨-, rfl⟩ | ⟨k, m, -, -, rfl⟩ |
      ⟨k, -, -, rfl⟩ | ⟨-, rfl⟩
    iterate 6 · exact absurd rfl hne
    · exact ⟨_, rfl⟩
    · exact absurd rfl hne

/-- Settles O39: the counter field is written from `RC[m]` before it advances, and `raise` writes no counter. -/
theorem counterCarriedThenAdvanced : Obligations.CounterCarriedThenAdvanced := by
  refine ⟨fun s i m h ds hv hi => ?_, fun s t i hexec hne => ?_⟩
  · obtain ⟨t, f, hexec, hbatch, -, heffect, -, hcnt, -⟩ := encode_completes hv hi
    exact ⟨t, f, hexec, hbatch, heffect, hcnt⟩
  · obtain ⟨e, rfl⟩ := exec_eq_raise_of_code_ne_ok hexec hne
    exact ⟨raise_rc e s, raise_batch e s⟩

/-- Settles O40: the checksum byte is written last, over the bytes below it, and leaves them as they are. -/
theorem checksumInLastByte : Obligations.ChecksumInLastByte := by
  intro s i m h ds hv hi hcsum
  obtain ⟨t, f, hexec, hbatch, -, -, -, -, hlast⟩ := encode_completes hv hi
  exact ⟨t, f, hexec, hbatch, hlast hcsum⟩

end Sys2Proof.Machine

/-! PROOFS. The batch of a `TICK` (43 R211, R212): the frames that the gated encodes add, message after message. -/

namespace Sys2Proof.Machine

/-! ### The frames of a list of messages -/

/-- The part of a frame that names its message (30 R90). -/
def frameIdentity (f : EncodedFrame) : BitVec 32 × Byte × Nat := (f.id, f.bus, f.len)

/-- The identity of the frames of a message (30 R90). -/
def headerIdentity (h : MsgHeader) : BitVec 32 × Byte × Nat := (h.id, h.bus, h.len)

theorem frameIdentity_of_frameOf {h : MsgHeader} {f : EncodedFrame} (hf : FrameOf h f) :
    frameIdentity f = headerIdentity h := by
  obtain ⟨hid, hbus, hlen, -⟩ := hf
  rw [frameIdentity, headerIdentity, hid, hbus, hlen]

/-- Offered the messages `hs` in this order from state `s`, the gate of the tick just executed lets some pass, and `t`
differs from `s` by their encodes only. -/
structure SendsDue (s t : State) (hs : List MsgHeader) : Prop where
  kept : withoutSends t = withoutSends s
  sent : t.batch.map frameIdentity =
    s.batch.map frameIdentity ++ (hs.filter fun h => sendGate s.out.frame h.div).map headerIdentity

theorem SendsDue.refl (s : State) : SendsDue s s [] := ⟨rfl, by simp⟩

theorem SendsDue.out_eq {s t : State} {hs : List MsgHeader} (hst : SendsDue s t hs) : t.out = s.out := by
  obtain ⟨-, -, hout, -⟩ := withoutSends_eq hst.kept
  exact hout

theorem SendsDue.cal_eq {s t : State} {hs : List MsgHeader} (hst : SendsDue s t hs) : t.cal = s.cal := by
  obtain ⟨-, -, -, -, hcal, -⟩ := withoutSends_eq hst.kept
  exact hcal

theorem encodeMessage_identities (m : MsgIndex) (h : MsgHeader) (l : List Slot) (s : State) :
    (encodeMessage m h l s).batch.map frameIdentity = s.batch.map frameIdentity ++ [headerIdentity h] := by
  rw [encodeMessage_batch, List.map_append, List.map_singleton,
    frameIdentity_of_frameOf (frameOf_encodedFrame h l _)]

/-- A gated encode offers its message after those before it (43 R211, R212). -/
theorem SendsDue.of_gated {s t : State} {hs : List MsgHeader} {h : MsgHeader} {send : State → State}
    {m : MsgIndex} {l : List Slot} (hst : SendsDue s t hs) (hsend : send t = encodeMessage m h l t) :
    SendsDue s (gated h send t) (hs ++ [h]) := by
  have hkept : withoutSends (send t) = withoutSends t := by rw [hsend, withoutSends_encodeMessage]
  refine ⟨(withoutSends_gated hkept).trans hst.kept, ?_⟩
  have hgate := gated_cases h send t
  rw [hst.out_eq] at hgate
  rcases hgate with ⟨hdue, hrun⟩ | ⟨hdue, hskip⟩
  · rw [hrun, hsend, encodeMessage_identities, hst.sent]
    simp [hdue]
  · rw [hskip, hst.sent]
    simp [hdue]

/-- The power/state frames are offered in index order (43 R211). -/
theorem SendsDue.of_sendStatesFrom {s : State} (l : List StateMsg) :
    ∀ {t : State} {hs : List MsgHeader} (k : Nat), SendsDue s t hs →
      SendsDue s (sendStatesFrom k l t) (hs ++ l.map (·.hdr)) := by
  induction l with
  | nil =>
    intro t hs k hst
    rwa [List.map_nil, List.append_nil]
  | cons msg rest ih =>
    intro t hs k hst
    have hrest := ih (k + 1) (hst.of_gated (send := sendState k msg) rfl)
    rwa [List.append_assoc, List.singleton_append] at hrest

theorem messages_headers (t : MsgTable) :
    (messages t).map Prod.fst =
      [] ++ [t.steer.hdr] ++ [t.long.hdr] ++ [t.brake.hdr] ++ [t.park.hdr] ++ t.state.map (·.hdr) := by
  simp [messages]

/-- The encodes of a `TICK` are offered every message in index order (43 R211). -/
theorem sendAll_sendsDue (s : State) : SendsDue s (sendAll s) ((messages s.cal.msg).map Prod.fst) := by
  have hsteer := (SendsDue.refl s).of_gated (send := sendSteer) rfl
  have hlong := hsteer.of_gated (send := sendLong) (by rw [sendLong, hsteer.cal_eq])
  have hbrake := hlong.of_gated (send := sendBrake) (by rw [sendBrake, hlong.cal_eq])
  have hpark := hbrake.of_gated (send := sendPark) (by rw [sendPark, hbrake.cal_eq])
  rw [messages_headers]
  exact hpark.of_sendStatesFrom s.cal.msg.state 0

/-! ### The batch of a `TICK` -/

/-- The frames of a `TICK` follow those already in the batch; its gate takes the index before stage 9 (41 R161,
43 R212). -/
theorem runTick_identities (s : State) :
    (runTick s).batch.map frameIdentity =
      s.batch.map frameIdentity ++
        (((messages s.cal.msg).map Prod.fst).filter fun h => sendGate s.act.frame h.div).map headerIdentity :=
  (sendAll_sendsDue (runStep s)).sent

/-- Settles O44: the gated encodes add the identities of the due messages in index order to a batch that starts
empty. -/
theorem tickSendsGatedMessagesInOrder : Obligations.TickSendsGatedMessagesInOrder := by
  intro s hv
  refine ⟨_, runCommand_of_valid runTick hv, ?_, ?_⟩
  · rw [complete_out, runTick_out]
    rfl
  · have hids := runTick_identities (startBatch s)
    rw [startBatch_batch, List.map_nil, List.nil_append, List.filter_map, List.map_map] at hids
    exact hids

end Sys2Proof.Machine

/-! PROOFS. The errors of the block (60 section 2): the one next state of a word that does not execute, what `raise`
writes for each error, and the configuration fault, which every step keeps. -/

namespace Sys2Proof.Machine

/-! ### What each error writes -/

theorem raise_errConfig (s : State) :
    raise .errConfig s = { s with batch := [], status := { s.status with code := .errConfig } } := by
  simp [raise]

theorem raise_errEncode (s : State) :
    raise .errEncode s = { s with batch := [], status := ⟨.errEncode, true, s.status.cmdErrSeen⟩ } := by
  simp [raise]

theorem raise_errCmd (s : State) :
    raise .errCmd s = { s with batch := [], status := ⟨.errCmd, s.status.encErrSeen, true⟩ } := by
  simp [raise]

/-! ### A word outside the command map -/

/-- Under a valid configuration a word that does not execute raises the error of its class, and its step does nothing
else (30 R82, 60 R224). -/
theorem step_eq_raise_of_not_executes {s : State} {w : Byte} {rest : List HostItem} (hv : calValid s.cal = true)
    (hp : s.pending = .command w :: rest) (hw : wordClass s.cal.nState w ≠ .executes) :
    step s = .next (raise (classResult (wordClass s.cal.nState w)) { s with pending := rest }) := by
  cases hd : decode w with
  | command i =>
    rcases wordClass_of_command s.cal.nState hd with ⟨hexec, -⟩ | ⟨hclass, k, rfl, hk⟩
    · exact absurd hexec hw
    · rw [step_command hp hd, hclass]
      exact exec_encState_unconfigured (s := { s with pending := rest }) hv hk
  | unknownMessage =>
    rw [step_unknownMessage hp hd, wordClass_of_unknownMessage _ hd]
    exact congrArg _ (reject_of_valid _ hv)
  | reservedWord =>
    rw [step_reservedWord hp hd, wordClass_of_reservedWord _ hd]
    exact congrArg _ (reject_of_valid _ hv)

/-- Settles O5: a word of either list does not execute, and the error it raises is that of its class. -/
theorem rejectedWordRaises : Obligations.RejectedWordRaises := by
  intro s w rest hp hv
  refine ⟨fun hcmd => ?_, fun henc => ?_⟩
  · have hclass := wordClass_of_reservedWord s.cal.nState (decode_eq_reservedWord hcmd)
    rw [step_eq_raise_of_not_executes hv hp (by simp [hclass]), hclass, classResult, raise_errCmd]
  · have hclass := wordClass_eq_errEncode henc
    rw [step_eq_raise_of_not_executes hv hp (by simp [hclass]), hclass, classResult, raise_errEncode]

/-! ### The configuration fault -/

/-- A rejection keeps the parameters, whichever error it raises (60 R224). -/
@[simp] theorem reject_cal (e : StatusCode) (s : State) : (reject e s).cal = s.cal := by
  unfold reject
  split <;> exact raise_cal _ s

/-- No step changes the parameters of its instance, a reset included (70 R250, R251). -/
theorem step_cal {s t : State} (h : step s = .next t) : t.cal = s.cal := by
  rcases step_cases h with ⟨-, rfl⟩ | ⟨o, rest, -, rfl⟩ | ⟨rest, -, rfl⟩ | ⟨w, rest, i, -, -, hexec⟩ |
    ⟨w, rest, -, -, rfl⟩ | ⟨w, rest, -, -, rfl⟩
  · rfl
  · exact drivePorts_cal o _
  · exact resetBlock_cal _
  · exact exec_cal (s := { s with pending := rest }) hexec
  · exact reject_cal _ _
  · exact reject_cal _ _

/-- Settles O7: a command and a command word of any kind raise `ERR_CONFIG`, and the fault is a function of the
parameters, which `step_cal` keeps. -/
theorem configFaultRefusesEveryWord : Obligations.ConfigFaultRefusesEveryWord := by
  intro s hv
  refine ⟨fun i => ?_, fun w rest hp => ?_, fun t h => ?_⟩
  · rw [exec_of_fault i hv, raise_errConfig]
  · rw [step_word_of_fault hv hp, raise_errConfig]
  · rw [cfgFault_eq_true, step_cal h]
    exact hv

end Sys2Proof.Machine

/-! PROOFS. The round trip of the command word (30 section 1), and what a command and a step answer whatever the state
(20 section 4, 60 section 4, 70 section 1). -/

namespace Sys2Proof.Machine

/-! ### The round trip of a command word -/

/-- A word by the numbers of its two fields (30 R80). -/
theorem toNat_append_nibbles (op arg : BitVec 4) : (op ++ arg).toNat = 16 * op.toNat + arg.toNat := by
  rw [BitVec.toNat_append, ← Nat.shiftLeft_add_eq_or_of_lt arg.isLt, Nat.shiftLeft_eq, Nat.mul_comm]

/-- A command word is its two fields (30 R80). -/
theorem opField_append_argField (w : Byte) : opField w ++ argField w = w := by
  apply BitVec.eq_of_toNat_eq
  rw [toNat_append_nibbles, opField_toNat, argField_toNat, Nat.div_add_mod]

/-- The word of `ENC.STATE` lies in its row of the command map, at the number of its frame (30 R81). -/
theorem toNat_encode_encState {k : Nat} (hk : k < 16) : (encode (.encState k)).toNat = 0x40 + k := by
  rw [encode, toNat_append_nibbles, BitVec.toNat_ofNat, BitVec.toNat_ofNat, Nat.mod_eq_of_lt hk]

/-- The decoder reads a well-formed command back from its word (30 section 1). -/
theorem decode_encode {i : Instr} (hi : i.WellFormed) : decode (encode i) = .command i := by
  cases i with
  | encState k =>
    have hk : k < 16 := of_decide_eq_true hi
    have hw := toNat_encode_encState hk
    rw [decode_eq_encState (by omega) (by omega), hw, Nat.add_sub_cancel_left]
  | _ => exact decode_encode_of_fullMask rfl

/-- The words of the command map, by their fields (30 R81, R83). -/
theorem decode_eq_command {w : Byte} {i : Instr} (h : decode w = .command i) :
    i.WellFormed ∧ encode i = opField w ++ argField w := by
  unfold decode at h
  split_ifs at h with hstep htick hop hsteer hlong hbrake hpark hstate <;> cases h
  · rw [hstep.1, hstep.2]; exact ⟨rfl, rfl⟩
  · rw [htick.1, htick.2]; exact ⟨rfl, rfl⟩
  · rw [hop, hsteer]; exact ⟨rfl, rfl⟩
  · rw [hop, hlong]; exact ⟨rfl, rfl⟩
  · rw [hop, hbrake]; exact ⟨rfl, rfl⟩
  · rw [hop, hpark]; exact ⟨rfl, rfl⟩
  · refine ⟨decide_eq_true (argField w).isLt, ?_⟩
    rw [hstate, encode, BitVec.ofNat_toNat, BitVec.setWidth_eq]

/-- Settles O1: `decode_encode`, and the word of a command that the decoder reads is given by its fields. -/
theorem decodeEncodeAgree : Obligations.DecodeEncodeAgree := by
  refine ⟨fun i hi => decode_encode hi, fun w i h => ?_⟩
  obtain ⟨hwf, hword⟩ := decode_eq_command h
  exact ⟨hwf, hword.trans (opField_append_argField w)⟩

/-! ### One step -/

/-- Settles O4: the equation of `step` for a command word. -/
theorem stepRunsDecodedCommand : Obligations.StepRunsDecodedCommand :=
  fun _ _ _ _ hp hd => step_command hp hd

/-- Settles O6: the command raises `ERR_ENCODE`, which is all it does. -/
theorem unconfiguredStateFrameRaises : Obligations.UnconfiguredStateFrameRaises := by
  intro s k hv hk
  rw [exec_encState_unconfigured hv hk, raise_errEncode]

/-- Whatever its effect, a command that runs whole answers a next state (60 R221, R222). -/
theorem runCommand_answers_next (f : State → State) (s : State) : ∃ t, runCommand f s = .next t := by
  cases hv : calValid s.cal with
  | true => exact ⟨_, runCommand_of_valid f hv⟩
  | false => exact ⟨_, runCommand_of_fault f hv⟩

/-- No command faults or is refused (60 R228). -/
theorem exec_answers_next (i : Instr) (s : State) : ∃ t, exec i s = .next t := by
  cases i with
  | encState k =>
    rw [exec]
    cases hk : s.cal.msg.state[k]? with
    | some m => rw [execEncState_of_configured hk]; exact runCommand_answers_next _ s
    | none => exact ⟨_, execEncState_of_unknown hk⟩
  | _ => exact runCommand_answers_next _ s

/-- Settles O8: the equation of `step` for each kind of host action, and `exec_answers_next`. -/
theorem everyStepAnswersNext : Obligations.EveryStepAnswersNext := by
  refine ⟨fun s => ?_, exec_answers_next⟩
  rcases hp : s.pending with _ | ⟨o | w | _, rest⟩
  · exact ⟨s, by rw [step, hp]⟩
  · exact ⟨_, step_operands hp⟩
  · cases hd : decode w with
    | command i => rw [step_command hp hd]; exact exec_answers_next i _
    | unknownMessage => exact ⟨_, step_unknownMessage hp hd⟩
    | reservedWord => exact ⟨_, step_reservedWord hp hd⟩
  · exact ⟨_, step_reset hp⟩

/-- Settles O9: `step_cal`, of which `STATUS.cfgFault` is a function. -/
theorem parametersNeverChange : Obligations.ParametersNeverChange := by
  intro s t h
  have hcal := step_cal h
  exact ⟨hcal, by rw [State.cfgFault, State.cfgFault, hcal]⟩

end Sys2Proof.Machine

/-! PROOFS. The primitives the spec draws conclusions from: the rate limiter (40 R123), the checksum (40 R126) and the
lookup at a breakpoint (40 R121 item 1). -/

namespace Sys2Proof.Machine

/-! ### The rate limiter -/

/-- Settles O53: each end of the window lies on its own side of the previous value, also where it saturates. -/
theorem rateLimitStaysInWindow : Obligations.RateLimitStaysInWindow := by
  intro target previous down up hdown hup
  have hwindow := toInt_rateLimit target previous hdown hup
  have htarget := fx_range target
  have hprev := fx_range previous
  exact ⟨by omega, by omega, by omega, by omega, fun hlo hhi => fx_ext (by omega)⟩

/-! ### The checksum -/

/-- A sequence that ends in its checksum has checksum 0 (40 R126). -/
theorem xorChecksum_append_self (l : List Byte) : xorChecksum (l ++ [xorChecksum l]) = 0#8 := by
  rw [xorChecksum_append, BitVec.xor_self]

/-- Every byte enters the checksum by one exclusive-or (40 R125). -/
theorem xorChecksum_append_cons (l r : List Byte) (b : Byte) :
    xorChecksum (l ++ b :: r) = b ^^^ (l.foldl (· ^^^ ·) 0#8 ^^^ xorChecksum r) := by
  rw [xorChecksum, xorChecksum, List.foldl_append, List.foldl_cons, foldl_xor, BitVec.xor_comm _ b, BitVec.xor_assoc,
    BitVec.xor_assoc]

/-- Settles O56: the last byte cancels the checksum, and an exclusive-or with a fixed byte is injective. -/
theorem checksumDetectsOneByte : Obligations.ChecksumDetectsOneByte := by
  refine ⟨xorChecksum_append_self, fun l r b b' hne heq => hne ?_⟩
  rw [xorChecksum_append_cons, xorChecksum_append_cons] at heq
  exact (BitVec.xor_left_inj _).1 heq

/-! ### The lookup at a breakpoint -/

/-- The breakpoints of a list of points are strictly increasing (20 R61). -/
abbrev Increasing (t : List Point) : Prop := t.Pairwise fun a b => a.1.toInt < b.1.toInt

/-- A segment answers its left value at its left breakpoint. -/
theorem onSegment_left (a b : Point) (hab : a.1.toInt < b.1.toInt) : onSegment a.1 a b = a.2 := by
  apply fx_ext
  rw [toInt_onSegment le_rfl hab, Int.sub_self, Int.mul_zero, Int.zero_ediv, Int.add_zero]

/-- The search answers the value at every breakpoint it can meet. -/
theorem interpFrom_breakpoint {p : Point} (rest : List Point) :
    ∀ a : Point, Increasing (a :: rest) → p ∈ a :: rest → interpFrom p.1 a rest = p.2 := by
  induction rest with
  | nil =>
    intro a _ hp
    obtain rfl := List.mem_singleton.1 hp
    rfl
  | cons b rest ih =>
    intro a hinc hp
    obtain ⟨hfirst, hinc⟩ := List.pairwise_cons.1 hinc
    rcases List.mem_cons.1 hp with rfl | hp
    · have hab := hfirst b List.mem_cons_self
      rw [interpFrom_cons_of_lt p rest hab, onSegment_left p b hab]
    · have hbp : b.1.toInt ≤ p.1.toInt := by
        rcases List.mem_cons.1 hp with rfl | hp
        · exact le_rfl
        · exact ((List.pairwise_cons.1 hinc).1 p hp).le
      rw [interpFrom_cons_of_le a rest hbp]
      exact ih b hinc hp

/-- Only the last point has the greatest breakpoint. -/
theorem eq_getLast_of_le {t : List Point} {p : Point} (hinc : Increasing t) (hp : p ∈ t) (hne : t ≠ [])
    (hle : (t.getLast hne).1.toInt ≤ p.1.toInt) : p = t.getLast hne := by
  rw [← List.dropLast_append_getLast hne, List.mem_append, List.mem_singleton] at hp
  rcases hp with hp | hp
  · have hlt : p.1.toInt < (t.getLast hne).1.toInt := by
      rw [Increasing, ← List.dropLast_append_getLast hne] at hinc
      exact (List.pairwise_append.1 hinc).2.2 p hp _ (List.mem_singleton_self _)
    exact absurd hle (Int.not_le.2 hlt)
  · exact hp

/-- The lookup answers the value at every breakpoint (40 R121 item 1). -/
theorem interpolate_breakpoint {t : List Point} {p : Point} (hinc : Increasing t) (hp : p ∈ t) :
    interpolate p.1 t = p.2 := by
  cases t with
  | nil => cases hp
  | cons a rest =>
    rw [interpolate_cons]
    split_ifs with hhead hlast
    · rcases List.mem_cons.1 hp with rfl | hp
      · rfl
      · exact absurd hhead (Int.not_le.2 ((List.pairwise_cons.1 hinc).1 p hp))
    · rw [← eq_getLast_of_le hinc hp _ hlast]
    · exact interpFrom_breakpoint rest a hinc hp

/-- The points of a table are as its breakpoints are. -/
theorem tablePoints_increasing {t : Table} (h : t.bp.Pairwise fun a b => a.toInt < b.toInt) :
    Increasing (tablePoints t) := by
  rw [Increasing, List.pairwise_iff_getElem]
  intro i j hi hj hij
  simp only [tablePoints, List.getElem_zip]
  exact List.pairwise_iff_getElem.1 h i j _ _ hij

/-- A table with strictly increasing breakpoints answers the value at each of them. -/
theorem interpolate_tabRead {t : Table} {i : Nat} {p : Point} (h : t.bp.Pairwise fun a b => a.toInt < b.toInt)
    (hp : tabRead t i = some p) : interpolate p.1 (tablePoints t) = p.2 :=
  interpolate_breakpoint (tablePoints_increasing h) (List.mem_of_getElem? hp)

/-- Settles O52: the lookup at a breakpoint; the mirror of a valid table that starts at 0 is strictly increasing. -/
theorem interpolateExactAtBreakpoints : Obligations.InterpolateExactAtBreakpoints := by
  refine ⟨fun t i p hinc hp => interpolate_breakpoint hinc (List.mem_of_getElem? hp), fun t i p ht hp => ?_,
    fun t i p ht hbp0 _ hp => ?_⟩
  · obtain ⟨-, -, -, hinc⟩ := ht
    exact interpolate_tabRead hinc hp
  · obtain ⟨-, -, -, hinc⟩ := ht
    exact interpolate_tabRead (mirrorColumn_pairwise hbp0 hinc) hp

end Sys2Proof.Machine

/-! PROOFS. Stage 5 (41 R151): the torque code at torque 0 and its bound, and the table on which it is not odd. -/

namespace Sys2Proof.Machine

/-! ### The magnitude of a rounded value -/

/-- Rounding adds half a unit to the magnitude and drops the fraction (40 R116). -/
theorem abs_roundNearest (a : Fx) : |roundNearest a| = (|a.toInt| + 32768) / 65536 := by
  have hq : 0 ≤ (|a.toInt| + 32768) / 65536 := by positivity
  rw [roundNearest, floorDiv_of_pos (by decide), Int.natCast_natAbs, abs_mul, abs_of_nonneg hq]
  obtain h0 | hne := eq_or_ne a.toInt 0
  · simp [h0]
  · rw [Int.abs_sign_of_ne_zero hne, Int.one_mul]

/-- A value within a bound rounds to one within the rounded bound. -/
theorem abs_roundNearest_le {a bound : Fx} (h : |a.toInt| ≤ bound.toInt) : |roundNearest a| ≤ roundNearest bound := by
  have hbound : 0 ≤ bound.toInt := (abs_nonneg _).trans h
  have hround : 0 ≤ roundNearest bound := by
    rw [roundNearest, floorDiv_of_pos (by decide)]
    exact Int.mul_nonneg (Int.sign_nonneg_iff.2 hbound) (by positivity)
  rw [← abs_of_nonneg hround, abs_roundNearest, abs_roundNearest, abs_of_nonneg hbound]
  exact Int.ediv_le_ediv (by decide) (by omega)

/-- A rounded value fits the 32-bit register of a torque code. -/
theorem toInt_ofInt_roundNearest (a : Fx) : (BitVec.ofInt 32 (roundNearest a)).toInt = roundNearest a := by
  have habs := abs_roundNearest a
  have hrange := fx_range a
  have ha : |a.toInt| ≤ 2147483648 := abs_le.2 ⟨hrange.1, hrange.2.trans (by decide)⟩
  have hcode : |roundNearest a| ≤ 32768 := by omega
  obtain ⟨hlo, hhi⟩ := abs_le.1 hcode
  exact toInt_ofInt_of_range (by simp only [fxMin]; omega) (by simp only [fxMax]; omega)

/-! ### The mirrored torque table -/

/-- The mirrored torque table answers 0 at 0 (40 R121, R124). -/
theorem interpolate_mirror_zero {c : Calibration} (hv : calValid c = true) :
    interpolate 0#32 (tablePoints (mirrorTable c.tq)) = 0#32 := by
  obtain ⟨htq, hbp0, hv0, -⟩ := tablesValid_of_calValid hv
  obtain ⟨-, -, -, hmiddle, -⟩ := mirrorTableIsOdd c.tq htq hbp0 hv0
  obtain ⟨-, -, hmirror⟩ := interpolateExactAtBreakpoints
  exact hmirror c.tq _ _ htq hbp0 hv0 hmiddle

/-- A bound on the magnitudes of a column bounds those of its mirror: negation saturates at `FX_MIN` alone, which no fx
value bounds. -/
theorem mirrorColumn_abs_le {l : List Fx} {bound : Fx} (hne : l ≠ []) (h : ∀ x ∈ l, |x.toInt| ≤ bound.toInt) :
    ∀ y ∈ mirrorColumn l, |y.toInt| ≤ bound.toInt := by
  have hpos : 0 ≤ bound.toInt := (abs_nonneg _).trans (h _ (List.head_mem hne))
  have hmax := (fx_range bound).2
  intro y hy
  rcases List.mem_append.1 hy with hneg | hrest
  · obtain ⟨x, hx, rfl⟩ := List.mem_map.1 hneg
    obtain ⟨hlo, hhi⟩ := abs_le.1 (h x (List.mem_of_mem_drop (List.mem_reverse.1 hx)))
    have hx : fxMin < x.toInt := by simp only [fxMin, fxMax] at *; omega
    rw [toInt_fxneg_of_lt hx, abs_neg]
    exact abs_le.2 ⟨hlo, hhi⟩
  · rcases List.mem_cons.1 hrest with rfl | hx
    · simpa using hpos
    · exact h y (List.mem_of_mem_drop hx)

/-- A lookup in the mirrored torque table is bounded as the table's values are (40 R121, R124). -/
theorem abs_interpolate_mirror_le {c : Calibration} (hv : calValid c = true) {bound : Fx}
    (h : ∀ x ∈ c.tq.v, |x.toInt| ≤ bound.toInt) (x : Fx) :
    |(interpolate x (tablePoints (mirrorTable c.tq))).toInt| ≤ bound.toInt := by
  obtain ⟨htq, hbp0, hv0, -⟩ := tablesValid_of_calValid hv
  obtain ⟨-, -, -, hmiddle, -⟩ := mirrorTableIsOdd c.tq htq hbp0 hv0
  have hvne : c.tq.v ≠ [] := by rintro hnil; simp [hnil] at hv0
  exact abs_le.2 (interpolate_range (List.ne_nil_of_mem (List.mem_of_getElem? hmiddle)) fun p hp =>
    abs_le.1 (mirrorColumn_abs_le hvne h p.2 (List.of_mem_zip hp).2))

/-- The torque code a `STEP` reports is that of its new torque (41 R151, R162). -/
theorem afterStep_torqueCode (s : State) :
    (afterStep s).out.torqueCode = BitVec.ofInt 32 (stageTorqueCode s.cal (afterStep s).act.lastTorque) := rfl

/-- Settles O25: the lookup at 0 and its bound, rounded; the code is a rounded value, so it fits. -/
theorem torqueCodeIsBounded : Obligations.TorqueCodeIsBounded := by
  refine ⟨fun c hv => ⟨?_, fun tq bound h => ?_⟩, fun s hv => ⟨afterStep s, exec_step_of_valid hv, ?_⟩⟩
  · have hneg : fxneg 0#32 = 0#32 := by decide
    rw [stageTorqueCode, hneg, interpolate_mirror_zero hv]
    decide
  · exact abs_roundNearest_le (abs_interpolate_mirror_le hv h _)
  · rw [afterStep_torqueCode, stageTorqueCode, toInt_ofInt_roundNearest]

/-! ### The torque code is not odd -/

/-- Valid parameters whose torque table has the value 65535 at 2 raw units: at 1 and at -1 the exact value lies halfway
between two raw values, and the floor of 40 R120 takes the lower one of each pair (log entry 9). -/
def calHalfway : Calibration := { calT with tq := ⟨[0#32, 2#32], [0#32, 65535#32]⟩ }

theorem calHalfway_valid : calValid calHalfway = true := by decide

/-- The lookup at -1 answers -32768, which rounds to -1. -/
theorem torqueCode_calHalfway_pos : stageTorqueCode calHalfway 1#32 = -1 := by decide

/-- The lookup at 1 answers 32767, which rounds to 0. -/
theorem torqueCode_calHalfway_neg : stageTorqueCode calHalfway (fxneg 1#32) = 0 := by decide

/-- Refutes O26: on `calHalfway` the torques 1 and -1 (raw) have the codes -1 and 0. -/
theorem not_torqueCodeIsOdd : ¬ Obligations.TorqueCodeIsOdd := by
  intro h
  have hodd := h calHalfway 1#32 calHalfway_valid
  rw [torqueCode_calHalfway_neg, torqueCode_calHalfway_pos] at hodd
  exact absurd hodd (by decide)

end Sys2Proof.Machine

/-! PROOFS. Where the brake hysteresis settles (41 R149). -/

namespace Sys2Proof.Machine

/-- The steady update ends positive, within the gap of the raw brake, and no farther from where it was than the raw
brake is (41 R149). With the latch clear the raw brake exceeds `HYST_ON`, hence the gap, so the update arm that keeps
the steady value is taken with the latch set only. -/
theorem steadyUpdate_settles {c : Calibration} (hv : calValid c = true) {b steady : Fx} {braking : Bool}
    (hb : 0 ≤ b.toInt ∧ b.toInt ≤ 65536) (hsteady : 0 ≤ steady.toInt)
    (hlatch : (braking = true → 0 < steady.toInt) ∧ (braking = false → steady = 0#32))
    (hnot : ¬ hystForced c b braking = true) :
    0 < (steadyUpdate c b steady).toInt ∧ |b.toInt - (steadyUpdate c b steady).toInt| ≤ c.hystGap.toInt ∧
      |(steadyUpdate c b steady).toInt - steady.toInt| ≤ |b.toInt - steady.toInt| := by
  obtain ⟨hoff, hoffOn, -, hgap, hgapOn⟩ := hystValid_of_calValid hv
  rw [hystForced_iff] at hnot
  have hbpos : 0 < b.toInt ∧ (steady.toInt = 0 → c.hystGap.toInt < b.toInt) := by
    cases braking with
    | true =>
      have hset := hlatch.1 rfl
      have hbrake : ¬ b.toInt < c.hystOff.toInt := fun h => hnot (.inr ⟨rfl, h⟩)
      omega
    | false =>
      have hbrake : ¬ b.toInt ≤ c.hystOn.toInt := fun h => hnot (.inl ⟨rfl, h⟩)
      omega
  rw [toInt_steadyUpdate hv steady hb]
  split_ifs with hrise hfall
  · refine ⟨by omega, by rw [Int.sub_sub_self, abs_of_nonneg hgap], abs_le_abs_of_nonneg (by omega) (by omega)⟩
  · refine ⟨by omega, abs_le.2 ⟨by omega, by omega⟩, ?_⟩
    rw [abs_of_nonpos (by omega), abs_of_nonpos (by omega)]
    omega
  · refine ⟨by omega, abs_le.2 ⟨by omega, by omega⟩, ?_⟩
    rw [Int.sub_self, abs_zero]
    exact abs_nonneg _

/-- What a `STEP` does to the latch and the steady value: forced to zero, or the steady update (41 R147, R148). -/
theorem afterStep_hysteresis_cases (s : State) :
    ((afterStep s).act.braking = false ∧ (afterStep s).act.brakeSteady = 0#32) ∨
    (¬ hystForced s.cal (stageDrive s.cal (condition s.cal s.inp)).brakeRaw s.act.braking = true ∧
      (afterStep s).act.braking = true ∧
      (afterStep s).act.brakeSteady =
        steadyUpdate s.cal (stageDrive s.cal (condition s.cal s.inp)).brakeRaw s.act.brakeSteady) := by
  rw [afterStep_braking, afterStep_brakeSteady, tickHysteresis]
  by_cases h : hystForced s.cal (stageDrive s.cal (condition s.cal s.inp)).brakeRaw s.act.braking = true
  · exact .inl (by rw [stageHysteresis_of_forced _ h]; exact ⟨rfl, rfl⟩)
  · exact .inr ⟨h, by rw [stageHysteresis_of_not_forced _ h]; exact ⟨rfl, rfl⟩⟩

/-- Settles O23: with the latch set after the tick its steady value is that of the steady update. -/
theorem brakeHysteresisSettles : Obligations.BrakeHysteresisSettles := by
  intro s hv ⟨⟨hsteady, _⟩, _⟩ hlatch
  refine ⟨afterStep s, _, exec_step_of_valid hv, rfl, fun hbraking => ?_⟩
  rcases afterStep_hysteresis_cases s with ⟨hclear, -⟩ | ⟨hnot, -, hnew⟩
  · rw [hclear] at hbraking
    cases hbraking
  · rw [hnew, stepLocals_drive]
    exact steadyUpdate_settles hv (stageDrive_brakeRaw_range _ _) hsteady hlatch hnot

end Sys2Proof.Machine

/-! PROOFS. A whole frame read back (42 section 2): the bits that belong to no field, the exclusive-or of a frame with a
checksum, and the signals of a power/state frame (42 R187). -/

namespace Sys2Proof.Machine

/-! ### The bits that belong to no field -/

/-- Writes of fields leave every bit outside all of them as it was (20 R65). -/
theorem getLsbD_foldl_writeField {l : List FieldWrite} (p : Payload) {b : Nat}
    (hb : ∀ r ∈ l.map Prod.fst, ¬(r.1 ≤ b ∧ b < r.1 + r.2)) :
    (l.foldl writeField p).getLsbD b = p.getLsbD b := by
  induction l generalizing p with
  | nil => rfl
  | cons w rest ih =>
    obtain ⟨hw, hrest⟩ := List.forall_mem_cons.1 hb
    rw [List.foldl_cons, ih _ hrest, writeField, payloadInsert_frame p w.2 (by omega)]

/-- In a frame every bit that belongs to no field of its message is 0 (42 R181). -/
theorem testBit_encodedFrame_of_unused (h : MsgHeader) (slots : List Slot) (c : Count) {b : Nat}
    (hb : ∀ r ∈ usedRanges h (slots.map Prod.fst), ¬(r.1 ≤ b ∧ b < r.1 + r.2)) :
    (payloadNumber (encodedFrame h slots c).payload).testBit b = false := by
  rw [← frameWrites_ranges h slots c] at hb
  rw [encodedFrame, payloadNumber_payloadBytes, Nat.testBit_mod_two_pow, BitVec.testBit_toNat, encodePayload_eq_foldl,
    getLsbD_foldl_writeField _ hb, BitVec.getLsbD_zero, Bool.and_false]

/-! ### The exclusive-or of a frame -/

/-- A sequence has checksum 0 exactly when the exclusive-or of its bytes is `0xFF` (40 R125). -/
theorem xorChecksum_eq_zero_iff (l : List Byte) : xorChecksum l = 0#8 ↔ l.foldl (· ^^^ ·) 0#8 = 0xFF#8 :=
  BitVec.xor_eq_zero_iff

/-- The bytes of the frame of a valid message with a checksum have checksum 0 (42 R189, 40 R126). -/
theorem xorChecksum_encodedFrame {h : MsgHeader} {ds : List Descriptor} (slots : List Slot) (c : Count)
    (hm : MessageValid h ds) (hcsum : h.hasCsum = true) : xorChecksum (encodedFrame h slots c).payload = 0#8 := by
  have hlast := getLast?_encodedFrame_payload slots c hm hcsum
  rw [← List.dropLast_append_getLast? _ hlast]
  exact xorChecksum_append_self _

/-- Settles O33: the slots, the counter, the checksum and the unused bits, each by its own lemma about
`encodedFrame`. -/
theorem frameFieldsReadBack : Obligations.FrameFieldsReadBack := by
  rintro h slots c f hm rfl
  exact ⟨frameOf_encodedFrame h slots c, fun k hk => slotHolds_encodedFrame c hm hk,
    fieldAt_encodedFrame_counter c hm,
    fun hcsum => (xorChecksum_eq_zero_iff _).1 (xorChecksum_encodedFrame slots c hm hcsum),
    fun _ hb => testBit_encodedFrame_of_unused h slots c hb⟩

/-! ### The signals of a power/state frame -/

/-- The message index of a configured power/state frame does not wrap (30 R84): there are at most 12 of them. -/
theorem stateIndex_val {c : Calibration} {k : Nat} (hv : calValid c = true) (hk : k < c.nState) :
    (stateIndex k).val = 4 + k := by
  obtain ⟨hcount, -⟩ := layoutValid_of_calValid hv
  have hbound : c.nState ≤ 12 := hcount
  exact Nat.mod_eq_of_lt (by omega)

/-- Signal `j` of a power/state frame is slot `j` of its message (42 R187). -/
theorem mem_stateSlots (msg : StateMsg) (i : Operands) (k : Nat) (j : Fin 8) :
    (msg.sig[j], (stateSignals i k)[j].toInt) ∈ stateSlots msg i k := by
  refine List.mem_of_getElem? (i := j.val) (List.getElem?_zip_eq_some.2 ⟨?_, ?_⟩)
  · simp
  · simp

/-- The signals of a frame whose row the host has set (10 R24). -/
theorem stateSignals_of_some {i : Operands} {k : Nat} {row : Vector Fx 8} (h : i.stateVal[k]? = some row) :
    stateSignals i k = row := by
  rw [stateSignals, h, Option.getD_some]

/-- The signals of a frame whose row the host has not set are 0 (log entry 2). -/
theorem stateSignals_of_none {i : Operands} {k : Nat} (h : i.stateVal[k]? = none) (j : Fin 8) :
    (stateSignals i k)[j] = 0#32 := by
  rw [stateSignals, h, Option.getD_none]
  exact Vector.getElem_replicate _

/-- Settles O38: the frame holds the slots of `stateSlots`, which are the eight signals. -/
theorem stateFrameHoldsItsSignals : Obligations.StateFrameHoldsItsSignals := by
  intro s k msg hv hk
  have hi : encodedMessage s.cal (.encState k) = some (stateIndex k, msg.hdr, stateDescriptors msg) := by
    rw [encodedMessage, hk, Option.map_some]
  have hindex := stateIndex_val hv (List.getElem?_eq_some_iff.1 hk).1
  obtain ⟨t, f, hexec, hbatch, hframe, heffect, hslots, -⟩ := encode_completes hv hi
  refine ⟨t, f, stateIndex k, hexec, hbatch, hframe, hindex, heffect, fun j => ?_⟩
  have hcommand : commandSlots s (.encState k) = stateSlots msg s.inp k := by
    rw [commandSlots, hk, Option.map_some, Option.getD_some]
  have hslot := hslots _ (hcommand ▸ mem_stateSlots msg s.inp k j)
  cases hrow : s.inp.stateVal[k]? with
  | some row => rwa [stateSignals_of_some hrow] at hslot
  | none => rwa [stateSignals_of_none hrow, BitVec.toInt_zero] at hslot

end Sys2Proof.Machine

/-! PROOFS. `TICK` as a `STEP` and a sequence of encode commands (43 R210 to R214): the effect of an encode command by
its message, the sends of a tick as a fold over the gated commands, and the counters that fold moves. -/

namespace Sys2Proof.Machine

/-! ### The effect of an encode command -/

/-- The effect of an encode command, less `STATUS.code`; a command that encodes no message has none (42 R181). -/
def sendCommand (s : State) (i : Instr) : State :=
  match encodedMessage s.cal i with
  | some (m, h, _) => encodeMessage m h (commandSlots s i) s
  | none => s

theorem sendCommand_of_some {s : State} {i : Instr} {m : MsgIndex} {h : MsgHeader} {ds : List Descriptor}
    (hi : encodedMessage s.cal i = some (m, h, ds)) : sendCommand s i = encodeMessage m h (commandSlots s i) s := by
  rw [sendCommand, hi]

theorem sendCommand_of_none {s : State} {i : Instr} (hi : encodedMessage s.cal i = none) : sendCommand s i = s := by
  rw [sendCommand, hi]

@[simp] theorem withoutSends_sendCommand (s : State) (i : Instr) :
    withoutSends (sendCommand s i) = withoutSends s := by
  unfold sendCommand
  split <;> rfl

@[simp] theorem sendCommand_cal (s : State) (i : Instr) : (sendCommand s i).cal = s.cal := by
  unfold sendCommand
  split <;> rfl

@[simp] theorem sendCommand_out (s : State) (i : Instr) : (sendCommand s i).out = s.out := by
  unfold sendCommand
  split <;> rfl

/-- The slots of a command read the parameters, the operand ports and the results alone (42 R180). -/
theorem commandSlots_congr {s t : State} (hcal : t.cal = s.cal) (hinp : t.inp = s.inp) (hout : t.out = s.out)
    (i : Instr) : commandSlots t i = commandSlots s i := by
  cases i <;> simp only [commandSlots, hcal, hinp, hout]

/-- An encode command of a configured message completes with its effect (42 R181). -/
theorem exec_eq_sendCommand {s : State} {i : Instr} (hv : calValid s.cal = true)
    (hi : (encodedMessage s.cal i).isSome) : exec i s = .next (complete (sendCommand (startBatch s) i)) := by
  obtain ⟨⟨m, h, ds⟩, hi⟩ := Option.isSome_iff_exists.1 hi
  obtain ⟨-, -, hexec⟩ := exec_of_encodedMessage hv hi
  rw [hexec, sendCommand_of_some (s := startBatch s) hi, commandSlots_congr (startBatch_cal s) rfl rfl]
  rfl

/-! ### The sends of a tick -/

/-- The message of a command passes the gate of tick `t` (43 R212). -/
def commandDue (c : Calibration) (t : Count) (i : Instr) : Bool :=
  ((encodedMessage c i).map fun m => sendGate t m.2.1.div).getD false

theorem gatedCommands_eq_filter (c : Calibration) (t : Count) :
    gatedCommands c t = (encodeCommands c).filter (commandDue c t) := rfl

theorem commandDue_of_some {c : Calibration} {i : Instr} {m : MsgIndex} {h : MsgHeader} {ds : List Descriptor}
    (t : Count) (hi : encodedMessage c i = some (m, h, ds)) : commandDue c t i = sendGate t h.div := by
  rw [commandDue, hi]
  rfl

/-- A command whose message passes the gate has a message. -/
theorem isSome_of_commandDue {c : Calibration} {t : Count} {i : Instr} (h : commandDue c t i = true) :
    (encodedMessage c i).isSome := by
  cases hi : encodedMessage c i with
  | some m => rfl
  | none => simp [commandDue, hi] at h

/-- A command runs if the gate of the tick just executed passes its message (43 R212). -/
def sendDue (s : State) (i : Instr) : State := if commandDue s.cal s.out.frame i then sendCommand s i else s

@[simp] theorem sendDue_cal (s : State) (i : Instr) : (sendDue s i).cal = s.cal := by
  unfold sendDue
  split <;> simp

/-- A gated encode is the gated command of its message. -/
theorem gated_eq_sendDue {s : State} {i : Instr} {m : MsgIndex} {h : MsgHeader} {ds : List Descriptor}
    {send : State → State} (hi : encodedMessage s.cal i = some (m, h, ds))
    (hsend : send s = encodeMessage m h (commandSlots s i) s) : gated h send s = sendDue s i := by
  rw [gated, sendDue, commandDue_of_some _ hi, sendCommand_of_some hi, hsend]

/-- The gated power/state frames are the gated commands of their numbers (43 R211). -/
theorem sendStatesFrom_eq_foldl (l : List StateMsg) :
    ∀ (k : Nat) (s : State), s.cal.msg.state.drop k = l →
      sendStatesFrom k l s = ((List.range' k l.length).map Instr.encState).foldl sendDue s := by
  induction l with
  | nil => intro k s _; rfl
  | cons msg rest ih =>
    intro k s hdrop
    have hk : s.cal.msg.state[k]? = some msg := by
      rw [← List.head?_drop, hdrop, List.head?_cons]
    have hrest : s.cal.msg.state.drop (k + 1) = rest := by
      rw [← List.drop_drop, hdrop, List.drop_one, List.tail_cons]
    have hi : encodedMessage s.cal (.encState k) = some (stateIndex k, msg.hdr, stateDescriptors msg) := by
      rw [encodedMessage, hk, Option.map_some]
    have hslots : commandSlots s (.encState k) = stateSlots msg s.inp k := by
      rw [commandSlots, hk, Option.map_some, Option.getD_some]
    have hsend := gated_eq_sendDue (send := sendState k msg) hi (by rw [hslots, sendState])
    rw [sendStatesFrom, hsend, ih _ _ (by rw [sendDue_cal, hrest])]
    rfl

/-- The encodes of a `TICK` are the gated encode commands in message order (43 R211). -/
theorem sendAll_eq_foldl_sendDue (s : State) : sendAll s = (encodeCommands s.cal).foldl sendDue s := by
  have hsteer : gated s.cal.msg.steer.hdr sendSteer s = sendDue s .encSteer := gated_eq_sendDue rfl rfl
  have hlong {t : State} (ht : t.cal = s.cal) : gated s.cal.msg.long.hdr sendLong t = sendDue t .encLong :=
    ht ▸ gated_eq_sendDue rfl rfl
  have hbrake {t : State} (ht : t.cal = s.cal) : gated s.cal.msg.brake.hdr sendBrake t = sendDue t .encBrake :=
    ht ▸ gated_eq_sendDue rfl rfl
  have hpark {t : State} (ht : t.cal = s.cal) : gated s.cal.msg.park.hdr sendPark t = sendDue t .encPark :=
    ht ▸ gated_eq_sendDue rfl rfl
  rw [sendAll, hsteer, hlong (by simp), hbrake (by simp), hpark (by simp), sendStatesFrom_eq_foldl _ 0 _ (by simp),
    encodeCommands, List.foldl_append, List.range_eq_range']
  rfl

/-- The gate reads what no encode writes, so the commands that run are known before the first of them. -/
theorem foldl_sendDue (l : List Instr) :
    ∀ s : State, l.foldl sendDue s = (l.filter (commandDue s.cal s.out.frame)).foldl sendCommand s := by
  induction l with
  | nil => intro s; rfl
  | cons i rest ih =>
    intro s
    rw [List.foldl_cons, ih]
    cases hdue : commandDue s.cal s.out.frame i with
    | true => rw [List.filter_cons_of_pos hdue, List.foldl_cons, sendDue, if_pos hdue, sendCommand_cal, sendCommand_out]
    | false => rw [List.filter_cons_of_neg (by simp [hdue]), sendDue, if_neg (by simp [hdue])]

/-- The encodes of a `TICK` are those of the commands that pass its gate (43 R211, R212). -/
theorem sendAll_eq_foldl (s : State) : sendAll s = (gatedCommands s.cal s.out.frame).foldl sendCommand s := by
  rw [sendAll_eq_foldl_sendDue, foldl_sendDue, gatedCommands_eq_filter]

/-- A change of the state that every encode command commutes with, and that leaves the parameters and the results,
commutes with the encodes of a tick. -/
theorem sendAll_comm {g : State → State} (hcal : ∀ s, (g s).cal = s.cal) (hout : ∀ s, (g s).out = s.out)
    (hsend : ∀ s i, sendCommand (g s) i = g (sendCommand s i)) (s : State) : sendAll (g s) = g (sendAll s) := by
  rw [sendAll_eq_foldl, sendAll_eq_foldl, hcal, hout]
  exact List.foldl_hom g hsend

/-- A change of the state that leaves the message and the slots of every command, and commutes with one encode, commutes
with the effect of every command. -/
theorem sendCommand_comm {g : State → State} (hcal : ∀ s, (g s).cal = s.cal)
    (hslots : ∀ s i, commandSlots (g s) i = commandSlots s i)
    (hencode : ∀ m h l s, encodeMessage m h l (g s) = g (encodeMessage m h l s)) (s : State) (i : Instr) :
    sendCommand (g s) i = g (sendCommand s i) := by
  cases hi : encodedMessage s.cal i with
  | none => rw [sendCommand_of_none hi, sendCommand_of_none (by rwa [hcal])]
  | some m => rw [sendCommand_of_some hi, sendCommand_of_some (s := g s) (by rwa [hcal]), hslots, hencode]

theorem sendCommand_complete (s : State) (i : Instr) : sendCommand (complete s) i = complete (sendCommand s i) :=
  sendCommand_comm complete_cal (fun _ => commandSlots_congr rfl rfl rfl) (fun _ _ _ _ => rfl) s i

/-- Under a valid configuration a `TICK` is the encodes of its gate from where its `STEP` ends (43 R210). -/
theorem exec_tick_of_valid {s : State} (hv : calValid s.cal = true) : exec .tick s = .next (sendAll (afterStep s)) := by
  rw [afterStep, sendAll_comm complete_cal complete_out sendCommand_complete]
  exact runCommand_of_valid runTick hv

/-! ### The encode commands one after the other -/

/-- The state with another batch. -/
def withBatch (b : List EncodedFrame) (s : State) : State := { s with batch := b }

/-- The effect of an encode on a batch that is not empty: the frames it adds are the same (42 R197). -/
theorem sendCommand_withBatch (b : List EncodedFrame) (s : State) (i : Instr) :
    sendCommand (withBatch b s) i =
      withBatch (b ++ (sendCommand (startBatch s) i).batch) (sendCommand (startBatch s) i) := by
  cases hi : encodedMessage s.cal i with
  | none =>
    rw [sendCommand_of_none (s := withBatch b s) hi, sendCommand_of_none (s := startBatch s) hi, startBatch_batch,
      List.append_nil]
    rfl
  | some m =>
    have hslots : commandSlots (withBatch b s) i = commandSlots (startBatch s) i := commandSlots_congr rfl rfl rfl i
    rw [sendCommand_of_some (s := withBatch b s) hi, sendCommand_of_some (s := startBatch s) hi, hslots]
    rfl

/-- Encode commands issued one after the other from a completed state end as their effects do in a row; their frames
are those that the row adds to a batch. -/
theorem runCommands_eq_foldl {c : Calibration} (hv : calValid c = true) {l : List Instr} :
    ∀ {s : State} (b : List EncodedFrame), (∀ i ∈ l, (encodedMessage c i).isSome) → s.cal = c → complete s = s →
      ∃ u frames, runCommands l s = some (u, frames) ∧
        withBatch (b ++ frames) u = l.foldl sendCommand (withBatch b s) := by
  induction l with
  | nil =>
    intro s b _ _ _
    exact ⟨s, [], rfl, by rw [List.append_nil, List.foldl_nil]⟩
  | cons i rest ih =>
    rintro s b hl rfl hdone
    obtain ⟨hi, hrest⟩ := List.forall_mem_cons.1 hl
    have hstart : complete (startBatch s) = startBatch s := congrArg startBatch hdone
    have hsent := sendCommand_complete (startBatch s) i
    rw [hstart] at hsent
    have hexec := exec_eq_sendCommand hv hi
    rw [← hsent] at hexec
    generalize ht : sendCommand (startBatch s) i = t at hsent hexec
    have hcal : t.cal = s.cal := ht ▸ sendCommand_cal (startBatch s) i
    obtain ⟨u, frames, hrun, hfold⟩ := ih (b ++ t.batch) hrest hcal hsent.symm
    refine ⟨u, t.batch ++ frames, by simp only [runCommands, hexec, hrun, Option.map_some], ?_⟩
    rw [List.foldl_cons, sendCommand_withBatch, ht, ← hfold, List.append_assoc]

/-- Settles O43: the `STEP` leaves a completed state with an empty batch, from which `runCommands_eq_foldl` takes the
gated commands. -/
theorem tickIsStepThenGatedEncodes : Obligations.TickIsStepThenGatedEncodes := by
  intro s hv
  have hsome (i : Instr) (hi : i ∈ gatedCommands s.cal s.act.frame) : (encodedMessage s.cal i).isSome :=
    isSome_of_commandDue (List.mem_filter.1 hi).2
  obtain ⟨u, frames, hrun, hfold⟩ := runCommands_eq_foldl hv (s := afterStep s) [] hsome rfl rfl
  refine ⟨_, u, frames, exec_tick_of_valid hv, ?_, ?_⟩
  · simp only [runCommands, exec_step_of_valid hv, hrun, Option.map_some]
    rfl
  · rw [sendAll_eq_foldl]
    exact hfold.symm

/-! ### The counters of a tick -/

/-- The command that encodes the message with an index (30 R84). -/
def commandOf (m : MsgIndex) : Instr :=
  match m.val with
  | 0 => .encSteer
  | 1 => .encLong
  | 2 => .encBrake
  | 3 => .encPark
  | k + 4 => .encState k

/-- The command of an index encodes the message of the table there. -/
theorem encodedMessage_commandOf (c : Calibration) (m : MsgIndex) :
    encodedMessage c (commandOf m) = ((messages c.msg)[m.val]?).map fun x => (m, x.1, x.2) := by
  obtain ⟨n, hn⟩ := m
  rcases n with _ | _ | _ | _ | k
  iterate 4 · rfl
  · have hindex : stateIndex k = ⟨k + 4, hn⟩ := Fin.ext ((Nat.mod_eq_of_lt (by omega)).trans (Nat.add_comm 4 k))
    simp [commandOf, encodedMessage, messages, hindex, Function.comp_def]

/-- Each message has one command (30 R84). -/
theorem eq_commandOf {c : Calibration} (hv : calValid c = true) {i : Instr} {m : MsgIndex} {h : MsgHeader}
    {ds : List Descriptor} (hi : encodedMessage c i = some (m, h, ds)) : i = commandOf m := by
  cases i with
  | step => cases hi
  | tick => cases hi
  | encState k =>
    obtain ⟨msg, hk, hmsg⟩ := Option.map_eq_some_iff.1 hi
    cases hmsg
    have hindex := stateIndex_val hv (List.getElem?_eq_some_iff.1 hk).1
    rw [commandOf, hindex, Nat.add_comm]
  | _ => cases hi; rfl

/-- A command that encodes a message is one of `encodeCommands` (30 R84). -/
theorem mem_encodeCommands {c : Calibration} {i : Instr} (hi : (encodedMessage c i).isSome) :
    i ∈ encodeCommands c := by
  cases i with
  | step => cases hi
  | tick => cases hi
  | encState k =>
    have hk : k < c.nState := by simpa [encodedMessage, Calibration.nState] using hi
    exact List.mem_append_right _ (List.mem_map_of_mem (List.mem_range.2 hk))
  | _ => simp [encodeCommands]

theorem nodup_encodeCommands (c : Calibration) : (encodeCommands c).Nodup := by
  have hstates : ((List.range c.nState).map Instr.encState).Nodup :=
    List.nodup_range.map fun _ _ h => Instr.encState.inj h
  refine List.nodup_append.2 ⟨by decide, hstates, fun i hi j hj hij => ?_⟩
  obtain ⟨k, -, rfl⟩ := List.mem_map.1 hj
  simp [hij] at hi

/-- The message with an index carries a counter (30 R86). -/
def carriesCounter (c : Calibration) (m : MsgIndex) : Bool := ((messages c.msg)[m.val]?).any fun x => x.1.hasCnt

/-- The message with an index carries a counter, and the gate of tick `t` passes it (43 R212). -/
def counterDue (c : Calibration) (t : Count) (m : MsgIndex) : Bool :=
  ((messages c.msg)[m.val]?).any fun x => x.1.hasCnt && sendGate t x.1.div

/-- The counter of a message after its message is sent (42 R188). -/
theorem sendCommand_rc_commandOf (s : State) (m : MsgIndex) :
    (sendCommand s (commandOf m)).rc[m] = if carriesCounter s.cal m then counterNext s.rc[m] else s.rc[m] := by
  have hi := encodedMessage_commandOf s.cal m
  rw [carriesCounter]
  cases hm : (messages s.cal.msg)[m.val]? with
  | none => rw [sendCommand_of_none (by rw [hi, hm, Option.map_none])]; rfl
  | some x =>
    rw [hm, Option.map_some] at hi
    rw [sendCommand_of_some hi, encodeMessage_rc, Option.any_some]
    cases x.1.hasCnt <;> simp

/-- A command moves no counter but that of its message (42 R188). -/
theorem sendCommand_rc_of_ne {s : State} (hv : calValid s.cal = true) {i : Instr} {m : MsgIndex}
    (hne : i ≠ commandOf m) : (sendCommand s i).rc[m] = s.rc[m] := by
  cases hi : encodedMessage s.cal i with
  | none => rw [sendCommand_of_none hi]
  | some x =>
    obtain ⟨j, h, ds⟩ := x
    have hjm : j.val ≠ m.val := fun hval => hne (Fin.ext hval ▸ eq_commandOf hv hi)
    rw [sendCommand_of_some hi, encodeMessage_rc]
    cases h.hasCnt <;> simp [hjm]

/-- Commands that do not repeat move the counter of a message once if its command is among them. -/
theorem foldl_sendCommand_rc (m : MsgIndex) {l : List Instr} :
    ∀ {s : State}, calValid s.cal = true → l.Nodup →
      (l.foldl sendCommand s).rc[m] =
        if commandOf m ∈ l ∧ carriesCounter s.cal m = true then counterNext s.rc[m] else s.rc[m] := by
  induction l with
  | nil => intro s _ _; simp
  | cons i rest ih =>
    intro s hv hnodup
    obtain ⟨hnew, hrest⟩ := List.nodup_cons.1 hnodup
    rw [List.foldl_cons, ih (by rwa [sendCommand_cal]) hrest, sendCommand_cal]
    by_cases him : i = commandOf m
    · have hnot : commandOf m ∉ rest := him ▸ hnew
      rw [him, sendCommand_rc_commandOf]
      simp [hnot]
    · have hmem : commandOf m ∈ i :: rest ↔ commandOf m ∈ rest := by simp [Ne.symm him]
      simp only [sendCommand_rc_of_ne hv him, hmem]

/-- A message that carries a counter moves it in a tick exactly if its command passes the gate. -/
theorem counterDue_iff (c : Calibration) (t : Count) (m : MsgIndex) :
    counterDue c t m = true ↔ commandOf m ∈ gatedCommands c t ∧ carriesCounter c m = true := by
  have hmem : commandOf m ∈ gatedCommands c t ↔ commandDue c t (commandOf m) = true :=
    ⟨fun h => (List.mem_filter.1 h).2, fun h => List.mem_filter.2 ⟨mem_encodeCommands (isSome_of_commandDue h), h⟩⟩
  have hi := encodedMessage_commandOf c m
  rw [hmem, counterDue, carriesCounter]
  cases hm : (messages c.msg)[m.val]? with
  | none => simp
  | some x =>
    rw [hm, Option.map_some] at hi
    rw [commandDue_of_some t hi]
    simp [and_comm]

/-- The counters after a tick: those of the messages sent have moved (43 R212, 42 R188). -/
theorem sendAll_rc {s : State} (hv : calValid s.cal = true) (m : MsgIndex) :
    (sendAll s).rc[m] = if counterDue s.cal s.out.frame m then counterNext s.rc[m] else s.rc[m] := by
  have hnodup : (gatedCommands s.cal s.out.frame).Nodup := (nodup_encodeCommands _).filter _
  rw [sendAll_eq_foldl, foldl_sendCommand_rc m hv hnodup]
  exact if_congr (counterDue_iff _ _ m).symm rfl rfl

theorem counterDue_of_none {c : Calibration} {m : MsgIndex} (t : Count) (hm : (messages c.msg)[m.val]? = none) :
    counterDue c t m = false := by
  rw [counterDue, hm, Option.any_none]

theorem counterDue_of_some {c : Calibration} {m : MsgIndex} {x : MsgHeader × List Descriptor} (t : Count)
    (hm : (messages c.msg)[m.val]? = some x) :
    counterDue c t m = true ↔ x.1.hasCnt = true ∧ t.toNat % x.1.div = 0 := by
  rw [counterDue, hm, Option.any_some, Bool.and_eq_true, sendGate, decide_eq_true_iff]

/-- Settles O45: the encodes of a tick write nothing of its `STEP`, and the counters as `sendAll_rc` says. -/
theorem tickTakesItsStep : Obligations.TickTakesItsStep := by
  intro s hv
  obtain ⟨hact, hstatus, hout, htel, hcal, hinp, hpending⟩ := withoutSends_eq (withoutSends_sendAll (afterStep s))
  refine ⟨_, _, exec_tick_of_valid hv, exec_step_of_valid hv, hact, hout, htel, ?_, ⟨hcal, hinp, hpending⟩, fun m => ?_⟩
  · rw [StatusOk, hstatus]
    exact ⟨rfl, rfl, rfl⟩
  · have hrc := sendAll_rc (s := afterStep s) hv m
    rw [hrc]
    cases hm : (messages s.cal.msg)[m.val]? with
    | none => exact if_neg (by rw [counterDue_of_none (c := (afterStep s).cal) _ hm]; decide)
    | some x =>
      rw [apply_ite BitVec.toNat, toNat_counterNext]
      exact if_congr (counterDue_of_some _ hm) rfl rfl

end Sys2Proof.Machine

/-! PROOFS. What the commands do not read (10 R25, 42 R180): `IN.cancel` by any command, and `S.*`, `TEL.*` and the time
by an encode. -/

namespace Sys2Proof.Machine

/-! ### The kinds of commands -/

/-- A command is a `STEP`, a `TICK`, the encode of a configured message, or the `ENC.STATE` of a frame that is not
configured. -/
theorem instr_cases (c : Calibration) (i : Instr) :
    i = .step ∨ i = .tick ∨ (encodedMessage c i).isSome ∨ ∃ k, i = .encState k ∧ c.nState ≤ k := by
  cases i with
  | step => exact .inl rfl
  | tick => exact .inr (.inl rfl)
  | encState k =>
    rcases Nat.lt_or_ge k c.nState with hk | hk
    · exact .inr (.inr (.inl (by simpa [encodedMessage, Calibration.nState] using hk)))
    · exact .inr (.inr (.inr ⟨k, rfl, hk⟩))
  | _ => exact .inr (.inr (.inl rfl))

/-! ### Changes that an encode does not notice -/

/-- A change of the state that leaves the parameters, the results and the slots of every command, and that commutes with
the operations the commands share: no encode reads what it changes. -/
structure Unnoticed (g : State → State) : Prop where
  cal : ∀ s, (g s).cal = s.cal
  out : ∀ s, (g s).out = s.out
  slots : ∀ s i, commandSlots (g s) i = commandSlots s i
  encode : ∀ m h l s, encodeMessage m h l (g s) = g (encodeMessage m h l s)
  raised : ∀ e s, raise e (g s) = g (raise e s)
  started : ∀ s, startBatch (g s) = g (startBatch s)
  completed : ∀ s, complete (g s) = g (complete s)

theorem Unnoticed.sendCommand {g : State → State} (hg : Unnoticed g) (s : State) (i : Instr) :
    sendCommand (g s) i = g (sendCommand s i) := sendCommand_comm hg.cal hg.slots hg.encode s i

/-- A command commutes with a change that no encode notices, if the command takes no `STEP` or its `STEP` commutes with
the change too. -/
theorem Unnoticed.exec {g : State → State} (hg : Unnoticed g) {i : Instr} {s t : State}
    (hstep : i = .step ∨ i = .tick → ∀ s, afterStep (g s) = g (afterStep s)) (h : exec i s = .next t) :
    exec i (g s) = .next (g t) := by
  cases hv : calValid s.cal with
  | false =>
    rw [exec_of_fault i hv, Host.Outcome.next.injEq] at h
    rw [exec_of_fault i (by rwa [hg.cal]), hg.raised, h]
  | true =>
    have hv' : calValid (g s).cal = true := by rwa [hg.cal]
    rcases instr_cases s.cal i with rfl | rfl | hi | ⟨k, rfl, hk⟩
    · rw [exec_step_of_valid hv, Host.Outcome.next.injEq] at h
      rw [exec_step_of_valid hv', hstep (.inl rfl), h]
    · rw [exec_tick_of_valid hv, Host.Outcome.next.injEq] at h
      rw [exec_tick_of_valid hv', hstep (.inr rfl), sendAll_comm hg.cal hg.out hg.sendCommand, h]
    · rw [exec_eq_sendCommand hv hi, Host.Outcome.next.injEq] at h
      rw [exec_eq_sendCommand hv' (by rwa [hg.cal]), hg.started, hg.sendCommand, hg.completed, h]
    · rw [exec_encState_unconfigured hv hk, Host.Outcome.next.injEq] at h
      rw [exec_encState_unconfigured hv' (by rwa [hg.cal]), hg.raised, h]

/-! ### The actuator state and the time -/

/-- The state with other values in `S.*` and `TEL.*` and on the time port. -/
def withActuator (a : ActuatorState) (l : Telemetry) (n : Time) (s : State) : State :=
  { s with act := a, tel := l, inp := { s.inp with now := n } }

/-- No slot is filled from `S.*`, `TEL.*` or the time (42 R183 to R187). -/
theorem commandSlots_withActuator (a : ActuatorState) (l : Telemetry) (n : Time) (s : State) (i : Instr) :
    commandSlots (withActuator a l n s) i = commandSlots s i := by
  cases i <;> rfl

theorem withActuator_unnoticed (a : ActuatorState) (l : Telemetry) (n : Time) : Unnoticed (withActuator a l n) where
  cal _ := rfl
  out _ := rfl
  slots := commandSlots_withActuator a l n
  encode _ _ _ _ := rfl
  raised _ _ := rfl
  started _ := rfl
  completed _ := rfl

/-- Settles O41: no encode notices another actuator state, other telemetry or another time. -/
theorem encodesIgnoreActuatorState : Obligations.EncodesIgnoreActuatorState :=
  fun _ _ _ a l n hstep htick h =>
    (withActuator_unnoticed a l n).exec (fun hi => (hi.elim hstep htick).elim) h

/-! ### The cancel port -/

/-- The state with another value on the port `IN.cancel`. -/
def withCancel (b : Bool) (s : State) : State := { s with inp := { s.inp with cancel := b } }

/-- No slot is filled from `IN.cancel` (10 R25). -/
theorem commandSlots_withCancel (b : Bool) (s : State) (i : Instr) :
    commandSlots (withCancel b s) i = commandSlots s i := by
  cases i <;> rfl

theorem withCancel_unnoticed (b : Bool) : Unnoticed (withCancel b) where
  cal _ := rfl
  out _ := rfl
  slots := commandSlots_withCancel b
  encode _ _ _ _ := rfl
  raised _ _ := rfl
  started _ := rfl
  completed _ := rfl

/-- No stage reads `IN.cancel` (10 R25). -/
theorem stepLocals_cancel (c : Calibration) (i : Operands) (a : ActuatorState) (b : Bool) :
    stepLocals c { i with cancel := b } a = stepLocals c i a := rfl

theorem afterStep_withCancel (b : Bool) (s : State) : afterStep (withCancel b s) = withCancel b (afterStep s) := by
  simp only [afterStep, runStep, startBatch, complete, withCancel, stepLocals_cancel]

/-- Settles O42: no encode notices another value on `IN.cancel`, and no stage of a `STEP` reads it. -/
theorem cancelHasNoEffect : Obligations.CancelHasNoEffect :=
  fun _ _ _ b h => (withCancel_unnoticed b).exec (fun _ => afterStep_withCancel b) h

end Sys2Proof.Machine

/-! PROOFS. The invariants of the block (10 R35, R41; 41 R159 to R163): what every step leaves in the registers, the
three invariants at reset and after a `STEP`, and so after every step. -/

namespace Sys2Proof.Machine

/-! ### What a step leaves in the registers -/

/-- Two states with the same parameters hold the same in `S.*`, `OUT.*` and `TEL.*`. -/
structure SameRegisters (s t : State) : Prop where
  act : t.act = s.act
  out : t.out = s.out
  tel : t.tel = s.tel
  cal : t.cal = s.cal

theorem SameRegisters.trans {s t u : State} (hst : SameRegisters s t) (htu : SameRegisters t u) : SameRegisters s u :=
  ⟨htu.act.trans hst.act, htu.out.trans hst.out, htu.tel.trans hst.tel, htu.cal.trans hst.cal⟩

theorem sameRegisters_of_withoutSends {s t : State} (h : withoutSends t = withoutSends s) : SameRegisters s t := by
  obtain ⟨hact, -, hout, htel, hcal, -⟩ := withoutSends_eq h
  exact ⟨hact, hout, htel, hcal⟩

theorem sameRegisters_pending (s : State) (rest : List HostItem) : SameRegisters s { s with pending := rest } :=
  ⟨rfl, rfl, rfl, rfl⟩

theorem sameRegisters_raise (e : StatusCode) (s : State) : SameRegisters s (raise e s) := ⟨rfl, rfl, rfl, rfl⟩

theorem sameRegisters_reject (e : StatusCode) (s : State) : SameRegisters s (reject e s) := by
  unfold reject
  split <;> exact sameRegisters_raise _ s

/-- A command leaves the registers as they were, or, a `STEP` or a `TICK`, as its `STEP` does (42 R180, 43 R210). -/
theorem exec_registers {i : Instr} {s t : State} (h : exec i s = .next t) :
    SameRegisters s t ∨ (calValid s.cal = true ∧ SameRegisters (afterStep s) t) := by
  cases hv : calValid s.cal with
  | false =>
    rw [exec_of_fault i hv, Host.Outcome.next.injEq] at h
    exact .inl (h ▸ sameRegisters_raise _ s)
  | true =>
    rcases instr_cases s.cal i with rfl | rfl | hi | ⟨k, rfl, hk⟩
    · rw [exec_step_of_valid hv, Host.Outcome.next.injEq] at h
      exact .inr ⟨rfl, h ▸ ⟨rfl, rfl, rfl, rfl⟩⟩
    · rw [exec_tick_of_valid hv, Host.Outcome.next.injEq] at h
      exact .inr ⟨rfl, h ▸ sameRegisters_of_withoutSends (withoutSends_sendAll _)⟩
    · rw [exec_eq_sendCommand hv hi, Host.Outcome.next.injEq] at h
      have hsent := sameRegisters_of_withoutSends (withoutSends_sendCommand (startBatch s) i)
      exact .inl (h ▸ ⟨hsent.act, hsent.out, hsent.tel, hsent.cal⟩)
    · rw [exec_encState_unconfigured hv hk, Host.Outcome.next.injEq] at h
      exact .inl (h ▸ sameRegisters_raise _ s)

/-- A step leaves the registers as they were, at reset, or as a `STEP` does. -/
theorem step_registers {s t : State} (h : step s = .next t) :
    SameRegisters s t ∨ SameRegisters (State.resetWith s.cal) t ∨
      (calValid s.cal = true ∧ SameRegisters (afterStep s) t) := by
  rcases step_cases h with ⟨-, rfl⟩ | ⟨o, rest, -, rfl⟩ | ⟨rest, -, rfl⟩ | ⟨w, rest, i, -, -, hexec⟩ |
    ⟨w, rest, -, -, rfl⟩ | ⟨w, rest, -, -, rfl⟩
  · exact .inl ⟨rfl, rfl, rfl, rfl⟩
  · exact .inl ⟨rfl, rfl, rfl, rfl⟩
  · exact .inr (.inl ⟨rfl, rfl, rfl, rfl⟩)
  · rcases exec_registers hexec with hkept | ⟨hv, hstep⟩
    · exact .inl ((sameRegisters_pending s rest).trans hkept)
    · exact .inr (.inr ⟨hv, hstep.act, hstep.out, hstep.tel, hstep.cal⟩)
  · exact .inl ((sameRegisters_pending s rest).trans (sameRegisters_reject _ _))
  · exact .inl ((sameRegisters_pending s rest).trans (sameRegisters_reject _ _))

/-- A property of the registers that holds at reset and is kept by `STEP` is kept by every step. -/
theorem step_keeps {P : State → Prop} (hcongr : ∀ {s t : State}, SameRegisters s t → P s → P t)
    (hreset : ∀ c, P (State.resetWith c)) (hstep : ∀ {s : State}, calValid s.cal = true → P s → P (afterStep s))
    {s t : State} (hs : P s) (h : step s = .next t) : P t := by
  rcases step_registers h with hkept | hzero | ⟨hv, hnext⟩
  · exact hcongr hkept hs
  · exact hcongr hzero (hreset s.cal)
  · exact hcongr hnext (hstep hv hs)

/-! ### The three invariants at reset -/

/-- At reset every fraction, the torque and the speed target are 0, the latch is clear and the codes are 0. -/
theorem inv_resetWith (c : Calibration) : (State.resetWith c).Inv := by
  have hunit : 0 ≤ (0#32 : Fx).toInt ∧ (0#32 : Fx).toInt ≤ 65536 := by decide
  have htorque : -65536 ≤ (0#32 : Fx).toInt ∧ (0#32 : Fx).toInt ≤ 65536 := by decide
  have hspeed : 0 ≤ (0#32 : Fx).toInt ∧ (0#32 : Fx).toInt ≤ 6553600 := by decide
  exact fun _ => ⟨⟨hunit, hunit, hunit, hunit⟩, htorque, ⟨nofun, fun _ => rfl⟩, Nat.zero_le _, hspeed, Nat.zero_le _⟩

theorem resultsRepeatState_resetWith (c : Calibration) : ResultsRepeatState (State.resetWith c) :=
  ⟨rfl, rfl, rfl, rfl, rfl, rfl, rfl, nofun⟩

theorem silentCountersZero_resetWith (c : Calibration) : SilentCountersZero (State.resetWith c) :=
  fun _ m _ => (atReset_resetWith c).rc_getElem m

/-- Settles O15: every register is 0 at reset. -/
theorem invariantsHoldAtReset : Obligations.InvariantsHoldAtReset :=
  fun c => ⟨inv_resetWith c, resultsRepeatState_resetWith c, silentCountersZero_resetWith c⟩

/-! ### The ranges of the registers (10 R41) -/

/-- The one state a completed `STEP` ends in. -/
theorem eq_afterStep {s t : State} (hv : calValid s.cal = true) (h : exec .step s = .next t) : t = afterStep s := by
  rw [exec_step_of_valid hv, Host.Outcome.next.injEq] at h
  exact h.symm

/-- The gas lies in [0, 1.0] (41 R144). -/
theorem stageDrive_gas_range (c : Calibration) (x : Conditioned) :
    0 ≤ (stageDrive c x).gas.toInt ∧ (stageDrive c x).gas.toInt ≤ 65536 := by
  cases h : x.active with
  | true =>
    rw [stageDrive_of_active c h, toInt_fxclamp_unit]
    omega
  | false =>
    rw [stageDrive_of_inactive c h]
    decide

/-- 10 R41 item 1: `OUT.brakeFrac` repeats the limited brake, and the new steady value is the hysteresis output. -/
theorem afterStep_fractionsInUnit {s : State} (hv : calValid s.cal = true) (h : FractionsInUnit s) :
    FractionsInUnit (afterStep s) := by
  have hbrake := stageDrive_brakeRaw_range s.cal (condition s.cal s.inp)
  have hout := stageHysteresis_out_range hv s.act.braking hbrake h.1
  obtain ⟨t, hexec, -, hlast⟩ := brakeReleaseIsLimited s hv
  obtain rfl := eq_afterStep hv hexec
  refine ⟨?_, hlast h, hlast h, stageDrive_gas_range _ _⟩
  rw [afterStep_brakeSteady, tickHysteresis, ← stageHysteresis_out]
  exact hout

/-- 10 R41 item 2, by the torque limit of stage 2. -/
theorem afterStep_torqueInUnit {s : State} (hv : calValid s.cal = true) (h : TorqueInUnit s) :
    TorqueInUnit (afterStep s) := by
  obtain ⟨t, hexec, -, -, -, hunit, -⟩ := stepLimitsTorque s hv
  obtain rfl := eq_afterStep hv hexec
  exact hunit h

/-- 10 R41 item 3: stage 3 clears both, or sets the latch and ends positive. -/
theorem afterStep_latchMatchesSteady {s : State} (hv : calValid s.cal = true) (hfrac : FractionsInUnit s)
    (h : LatchMatchesSteady s) : LatchMatchesSteady (afterStep s) := by
  obtain ⟨⟨hsteady, -⟩, -⟩ := hfrac
  rcases afterStep_hysteresis_cases s with ⟨hclear, hzero⟩ | ⟨hnot, hset, hnew⟩
  · exact ⟨fun hbraking => absurd (hclear.symm.trans hbraking) (by decide), fun _ => hzero⟩
  · obtain ⟨hpos, -, -⟩ := steadyUpdate_settles hv (stageDrive_brakeRaw_range _ _) hsteady h hnot
    exact ⟨fun _ => hnew ▸ hpos, fun hbraking => absurd (hset.symm.trans hbraking) (by decide)⟩

/-- 10 R41 item 4: on a protection tick by stage 8, on another tick the code holds. -/
theorem afterStep_brakeCodeBelowTop {s : State} (hv : calValid s.cal = true) (h : BrakeCodeBelowTop s) :
    BrakeCodeBelowTop (afterStep s) := by
  rcases Nat.mod_two_eq_zero_or_one s.act.frame.toNat with heven | hodd
  · obtain ⟨-, -, -, -, -, -, -, -, -, -, htop, -⟩ := scalarsValid_of_calValid hv
    rw [BrakeCodeBelowTop, afterStep_applyBrakeLast_of_even heven]
    exact (toNat_stageBrakeCode htop _ _).2
  · obtain ⟨t, hexec, hheld, -⟩ := protectionHeldOnOtherTicks s hv hodd
    obtain rfl := eq_afterStep hv hexec
    rw [BrakeCodeBelowTop, hheld]
    exact h

/-- 10 R41 item 6, by the ranges of stages 6 and 7. -/
theorem afterStep_resultsInRange {s : State} (hv : calValid s.cal = true) : ResultsInRange (afterStep s) := by
  obtain ⟨t, a, m, hexec, -, -, -, -, -, -, haccel⟩ := accelCodeOfAcceleration s hv
  obtain rfl := eq_afterStep hv hexec
  exact ⟨stageSpeedTarget_range _ _ _ _ _, haccel⟩

/-- A `STEP` keeps the invariants of 10 R41. -/
theorem afterStep_inv {s : State} (hv : calValid s.cal = true) (h : s.Inv) : (afterStep s).Inv := by
  obtain ⟨hfrac, htorque, hlatch, hcode, -⟩ := h hv
  exact fun _ => ⟨afterStep_fractionsInUnit hv hfrac, afterStep_torqueInUnit hv htorque,
    afterStep_latchMatchesSteady hv hfrac hlatch, afterStep_brakeCodeBelowTop hv hcode, afterStep_resultsInRange hv⟩

/-- The invariants of 10 R41 are about the registers. -/
theorem SameRegisters.inv {s t : State} (hst : SameRegisters s t) (h : s.Inv) : t.Inv := by
  obtain ⟨hact, hout, htel, hcal⟩ := hst
  simpa only [State.Inv, FractionsInUnit, TorqueInUnit, LatchMatchesSteady, BrakeCodeBelowTop, ResultsInRange, hact,
    hout, htel, hcal] using h

/-- Settles O12: the invariants hold at reset, and each of them is kept by the stage of `STEP` that writes its
registers. -/
theorem invariantKeptByEveryStep : Obligations.InvariantKeptByEveryStep :=
  fun _ _ hs h => step_keeps SameRegisters.inv inv_resetWith afterStep_inv hs h

/-! ### The results that repeat the state (41 R159 to R163) -/

/-- After a `STEP` the results repeat the state it wrote; the pump flag is fresh or holds with its code. -/
theorem afterStep_resultsRepeatState {s : State} (hv : calValid s.cal = true) (h : ResultsRepeatState s) :
    ResultsRepeatState (afterStep s) := by
  obtain ⟨-, -, -, -, -, -, -, hpump⟩ := h
  refine ⟨rfl, rfl, rfl, rfl, rfl, rfl, rfl, fun hon => ?_⟩
  rcases Nat.mod_two_eq_zero_or_one s.act.frame.toNat with heven | hodd
  · rw [afterStep_pumpOn_of_even heven, pumpRuns_iff] at hon
    exact hon.1
  · obtain ⟨t, hexec, hcode, -, hheld, -⟩ := protectionHeldOnOtherTicks s hv hodd
    obtain rfl := eq_afterStep hv hexec
    rw [hcode]
    exact hpump (hheld ▸ hon)

theorem SameRegisters.resultsRepeatState {s t : State} (hst : SameRegisters s t) (h : ResultsRepeatState s) :
    ResultsRepeatState t := by
  obtain ⟨hact, hout, htel, -⟩ := hst
  simpa only [ResultsRepeatState, hact, hout, htel] using h

/-- Settles O13: the registers repeat one another at reset and after a `STEP`, and nothing else writes them. -/
theorem resultsRepeatStateKept : Obligations.ResultsRepeatStateKept :=
  fun _ _ hs h =>
    step_keeps SameRegisters.resultsRepeatState resultsRepeatState_resetWith afterStep_resultsRepeatState hs h

/-! ### The counters of messages that carry none (10 R35) -/

/-- A message without a counter, or an index without a message, carries no counter. -/
theorem carriesCounter_eq_false {c : Calibration} {m : MsgIndex}
    (h : ∀ h ds, (messages c.msg)[m.val]? = some (h, ds) → h.hasCnt = false) : carriesCounter c m = false := by
  rw [carriesCounter]
  cases hm : (messages c.msg)[m.val]? with
  | none => rfl
  | some x => exact h x.1 x.2 hm

/-- A command leaves the counter of a message that carries none (42 R188). -/
theorem exec_rc_of_silent {i : Instr} {s t : State} {m : MsgIndex} (hm : carriesCounter s.cal m = false)
    (h : exec i s = .next t) : t.rc[m] = s.rc[m] := by
  cases hv : calValid s.cal with
  | false =>
    rw [exec_of_fault i hv, Host.Outcome.next.injEq] at h
    rw [← h, raise_rc]
  | true =>
    rcases instr_cases s.cal i with rfl | rfl | hi | ⟨k, rfl, hk⟩
    · rw [exec_step_of_valid hv, Host.Outcome.next.injEq] at h
      rw [← h]
      rfl
    · have hdue : ¬ counterDue s.cal s.act.frame m = true := by simp [counterDue_iff, hm]
      rw [exec_tick_of_valid hv, Host.Outcome.next.injEq] at h
      rw [← h, sendAll_rc (s := afterStep s) hv]
      exact if_neg hdue
    · rw [exec_eq_sendCommand hv hi, Host.Outcome.next.injEq] at h
      rw [← h, complete_rc]
      by_cases him : i = commandOf m
      · rw [him, sendCommand_rc_commandOf]
        exact if_neg (by rw [startBatch_cal, hm]; decide)
      · exact sendCommand_rc_of_ne (s := startBatch s) hv him
    · rw [exec_encState_unconfigured hv hk, Host.Outcome.next.injEq] at h
      rw [← h, raise_rc]

/-- A rejection writes no counter (60 R224). -/
theorem reject_rc (e : StatusCode) (s : State) : (reject e s).rc = s.rc := by
  unfold reject
  split <;> exact raise_rc _ s

/-- A step leaves the counter of a message that carries none, or puts it at its reset value. -/
theorem step_rc_of_silent {s t : State} {m : MsgIndex} (hm : carriesCounter s.cal m = false)
    (h : step s = .next t) : t.rc[m] = s.rc[m] ∨ t.rc[m] = 0#4 := by
  rcases step_cases h with ⟨-, rfl⟩ | ⟨o, rest, -, rfl⟩ | ⟨rest, hp, -⟩ | ⟨w, rest, i, -, -, hexec⟩ |
    ⟨w, rest, -, -, rfl⟩ | ⟨w, rest, -, -, rfl⟩
  · exact .inl rfl
  · exact .inl rfl
  · exact .inr ((atReset_of_step_reset hp h).rc_getElem m)
  · exact .inl (exec_rc_of_silent (s := { s with pending := rest }) hm hexec)
  · exact .inl (by rw [reject_rc])
  · exact .inl (by rw [reject_rc])

/-- Settles O14: a step keeps such a counter or resets it, and the parameters stay. -/
theorem silentCountersStayZero : Obligations.SilentCountersStayZero := by
  intro s t hs h hv m hm
  rw [step_cal h] at hv hm
  rcases step_rc_of_silent (carriesCounter_eq_false hm) h with hkept | hzero
  · rw [hkept]
    exact hs hv m hm
  · exact hzero

end Sys2Proof.Machine
